-- ==== Sys2Proof/Config.lean ====
section
/-! DEFINITION. The constants of the EV1527 frame decoder (00_scope.md R6), and what R7 says of its one open parameter, the tick
width `W`: every definition that needs `W` takes it as an argument, and a machine carries its own as `Machine.State.W` (log 1).
No operation writes a constant and no operation reads one out (R6). The literals are unaudited (93_implementation_defined.md
U16, log 8): an audit changes this file only. -/

namespace Sys2Proof.Config

/-- The default of the open parameter `W`, the width in bits of a tick count (R7, D1). Only `Machine.State.reset` and the reading of
the opcode table, which is written for this width, use it. -/
abbrev W_DEFAULT : Nat := 16

/-- The smallest `W` a block may have (R7, D1). -/
abbrev W_MIN : Nat := 14

/-- Exclusive lower bound on `highTicks + lowTicks` (R6). -/
def MIN_PULSE_TICKS : Nat := 450

/-- Exclusive upper bound on `highTicks + lowTicks` (R6). -/
def MAX_PULSE_TICKS : Nat := 8500

/-- Inclusive lower multiplier of the preamble test (R6). -/
def PRE_MIN_MULT : Nat := 25

/-- Inclusive upper multiplier of the preamble test (R6). -/
def PRE_MAX_MULT : Nat := 40

/-- Numerator of the bit threshold 1.5 (R6). -/
def BIT_NUM : Nat := 3

/-- Denominator of the bit threshold 1.5 (R6). -/
def BIT_DEN : Nat := 2

/-- Index of the last data bit (R6). -/
def EV_maxIndexData : Nat := 23

/-- Data bits per frame (R6). -/
abbrev N_BITS : Nat := 24

/-- Width of `address` (R6). -/
abbrev ADDR_BITS : Nat := 20

/-- Width of `key` (R6). -/
abbrev KEY_BITS : Nat := 4

/-- What the spec asks of the constants: `N_BITS` is `EV_maxIndexData + 1` and is split into address and key (R6),
and the default width is a legal one (R7). -/
theorem constants_agree :
    N_BITS = EV_maxIndexData + 1 ∧ ADDR_BITS + KEY_BITS = N_BITS ∧ W_MIN ≤ W_DEFAULT := by decide

/-- The reason for `W ≥ 14`: at every legal width `MAX_PULSE_TICKS` is representable (R7). -/
theorem max_pulse_ticks_representable {W : Nat} (h : W_MIN ≤ W) : MAX_PULSE_TICKS < 2 ^ W :=
  lt_of_lt_of_le (by decide : MAX_PULSE_TICKS < 2 ^ W_MIN) (Nat.pow_le_pow_right (by decide) h)

@[simp] theorem MIN_PULSE_TICKS_eq : MIN_PULSE_TICKS = 450 := rfl
@[simp] theorem MAX_PULSE_TICKS_eq : MAX_PULSE_TICKS = 8500 := rfl
@[simp] theorem PRE_MIN_MULT_eq : PRE_MIN_MULT = 25 := rfl
@[simp] theorem PRE_MAX_MULT_eq : PRE_MAX_MULT = 40 := rfl
@[simp] theorem BIT_NUM_eq : BIT_NUM = 3 := rfl
@[simp] theorem BIT_DEN_eq : BIT_DEN = 2 := rfl
@[simp] theorem EV_maxIndexData_eq : EV_maxIndexData = 23 := rfl

end Sys2Proof.Config
end

