-- ==== Sys2Proof/Word.lean ====
section
/-! DEFINITION. The word types. A tick count is a natural number (00_scope.md R8: unsigned), below `2^W` on a block of tick width `W`
(R7): all arithmetic on it but one subtraction is exact (41_pulse_pair.md R96). A command word is the number of its `3 + 2W` bits
`op A B`, `op` the most significant (30_encoding.md R60); Decode.lean reads its fields. What has one width on every block is a bit
vector. -/

namespace Sys2Proof

/-- The word on the result port (30_encoding.md R67). -/
abbrev ResultWord := BitVec 32

end Sys2Proof
end

