-- ==== Sys2Proof/Syntax.lean ====
section
/-! DEFINITION. The operations of the block: one constructor per row of spec/opcode_table.json (30_encoding.md R62). -/

namespace Sys2Proof

/-- The three command formats, which differ only in the operand fields they use (30_encoding.md R61). -/
inductive Format where
  /-- No operand. -/
  | N
  /-- `A` = `highTicks`, `B` = `lowTicks`. -/
  | P
  /-- `B` = `ticks`. -/
  | E
deriving DecidableEq, Repr

/-- One operation, with its operands as the command word carries them: plain unsigned numbers, below `2^W` on a block of tick
width `W` (R63; `Instr.wellFormed`). -/
inductive Instr where
  /-- The reserved opcode (R65). -/
  | reserved
  /-- `INIT` (40_lifecycle.md R80). -/
  | init
  /-- `SHUTDOWN` (40_lifecycle.md R82). -/
  | shutdown
  /-- `PAIR highTicks, lowTicks` (41_pulse_pair.md R90). -/
  | pair (highTicks lowTicks : Nat)
  /-- `READFRAME` (42_consumer.md R110). -/
  | readframe
  /-- `CLRDET` (42_consumer.md R112). -/
  | clrdet
  /-- `EDGER ticks` (43_edge_front_end.md R125). -/
  | edger (ticks : Nat)
  /-- `EDGEF ticks` (43_edge_front_end.md R123). -/
  | edgef (ticks : Nat)
deriving DecidableEq, Repr

end Sys2Proof
end

