-- ==== Sys2Proof/WellFormed.lean ====
section
/-! DEFINITION. What is well formed on a block of tick width `W`: an operand, an operation, a command word. The block itself has no
illegal encoding and no illegal operand (30_encoding.md R63, R66): every word decodes to a well-formed operation. The checks stand
where a number comes from outside the widths of R60 (an operation written down, the trace text, the opcode table). -/

namespace Sys2Proof

/-- A number that may stand as an operand: below `2^W` (30_encoding.md R63, R68). -/
def operandInRange (W n : Nat) : Bool := decide (n < 2 ^ W)

/-- An operation with operands that the command word can carry; "there is no illegal operand value" among them (30_encoding.md
R63). -/
def Instr.wellFormed (W : Nat) : Instr → Bool
  | .reserved => true
  | .init => true
  | .shutdown => true
  | .pair highTicks lowTicks => operandInRange W highTicks && operandInRange W lowTicks
  | .readframe => true
  | .clrdet => true
  | .edger ticks => operandInRange W ticks
  | .edgef ticks => operandInRange W ticks

/-- A number that is a command word: it has no bit above the `3 + 2W` of 30_encoding.md R60. -/
def fitsCommandWord (W n : Nat) : Bool := decide (n < 2 ^ (3 + 2 * W))

end Sys2Proof
end

