-- ==== Sys2Proof/Decode.lean ====
section
/-! DEFINITION. The decoder, total on every command word, and the encoder beside it (30_encoding.md R60 to R66), for every tick
width `W`. -/

namespace Sys2Proof

/-- The field `op`, bits `2W+2` down to `2W` (R60). -/
def CommandWord.op (W w : Nat) : BitVec 3 := BitVec.ofNat 3 (w / 2 ^ (2 * W))

/-- The field `A`, bits `2W-1` down to `W` (R60). -/
def CommandWord.fieldA (W w : Nat) : Nat := w / 2 ^ W % 2 ^ W

/-- The field `B`, bits `W-1` down to 0 (R60). -/
def CommandWord.fieldB (W w : Nat) : Nat := w % 2 ^ W

/-- The opcode map (R62), on the three bits of `op`, most significant first. "A decoder reads `op` and nothing else to select
the operation"; the ignored fields of R64 are not looked at. -/
def decode (W w : Nat) : Instr :=
  match (CommandWord.op W w).getLsbD 2, (CommandWord.op W w).getLsbD 1, (CommandWord.op W w).getLsbD 0 with
  | false, false, false => .reserved
  | false, false, true => .init
  | false, true, false => .shutdown
  | false, true, true => .pair (CommandWord.fieldA W w) (CommandWord.fieldB W w)
  | true, false, false => .readframe
  | true, false, true => .clrdet
  | true, true, false => .edger (CommandWord.fieldB W w)
  | true, true, true => .edgef (CommandWord.fieldB W w)

/-- Why a number is no command word. The block itself refuses none (R66): this is about a number with more bits than the
command port has (R60). -/
inductive DecodeError where
  /-- A bit above bit `2W+2` is set: the port has no such bit. Safe: nothing is run. -/
  | wordTooWide
deriving DecidableEq, Repr

/-- The decoder on a number: a command word is decoded, a wider number is rejected by name (log 15). -/
def decodeNumber (W n : Nat) : Except DecodeError Instr :=
  if fitsCommandWord W n then .ok (decode W n) else .error .wordTooWide

/-- The opcode of an operation (R62). -/
def Instr.opcode : Instr → BitVec 3
  | .reserved => 0b000#3
  | .init => 0b001#3
  | .shutdown => 0b010#3
  | .pair _ _ => 0b011#3
  | .readframe => 0b100#3
  | .clrdet => 0b101#3
  | .edger _ => 0b110#3
  | .edgef _ => 0b111#3

/-- The format of an operation (R61, R62). -/
def Instr.format : Instr → Format
  | .reserved => .N
  | .init => .N
  | .shutdown => .N
  | .pair _ _ => .P
  | .readframe => .N
  | .clrdet => .N
  | .edger _ => .E
  | .edgef _ => .E

/-- The field `A` of the canonical word: `highTicks` in format P, zero elsewhere (R61, R64). -/
def Instr.operandA : Instr → Nat
  | .reserved => 0
  | .init => 0
  | .shutdown => 0
  | .pair highTicks _ => highTicks
  | .readframe => 0
  | .clrdet => 0
  | .edger _ => 0
  | .edgef _ => 0

/-- The field `B` of the canonical word: `lowTicks` in format P, `ticks` in format E, zero in format N (R61, R64). -/
def Instr.operandB : Instr → Nat
  | .reserved => 0
  | .init => 0
  | .shutdown => 0
  | .pair _ lowTicks => lowTicks
  | .readframe => 0
  | .clrdet => 0
  | .edger ticks => ticks
  | .edgef ticks => ticks

/-- The canonical command word of a well-formed operation: `{op, A, B}` with the ignored fields zero (R60, R64). -/
def encode (W : Nat) (i : Instr) : Nat := i.opcode.toNat * 2 ^ (2 * W) + i.operandA * 2 ^ W + i.operandB

/-- The fields that the word's format ignores are zero, as R64 asks of a producer of command words. -/
def CommandWord.isCanonical (W w : Nat) : Bool :=
  match (decode W w).format with
  | .N => decide (CommandWord.fieldA W w = 0) && decide (CommandWord.fieldB W w = 0)
  | .P => true
  | .E => decide (CommandWord.fieldA W w = 0)

/-- The host's reading of a row of spec/opcode_table.json: the `nbits` low bits of `w`, every bit above them 0, presented as
one command word of a block of the width the table is written for (the block has one word per operation and no byte order,
20_memory.md R43). -/
def decodeTableWord (nbits w : Nat) : Option Instr :=
  match decodeNumber Config.W_DEFAULT (w % 2 ^ nbits) with
  | .ok i => some i
  | .error _ => none

end Sys2Proof
end

