-- ==== Sys2Proof/Machine/State.lean ====
section
/-! DEFINITION. The state of the block as plain data (10_state.md R10), the model's own fields for its ports, the reasons a
step can stop (there are none), and the state after hardware reset (R30). -/

namespace Sys2Proof.Machine

/-- A level of the RF data line; `LOW` = 0 and `HIGH` = 1 (10_state.md R16). -/
inductive Level where
  /-- `LOW` = 0. -/
  | low
  /-- `HIGH` = 1. -/
  | high
deriving DecidableEq, Repr

/-- "The complete state of the block is the ten elements of this table and nothing else" (10_state.md R10). -/
structure Block where
  /-- 1 after `INIT`, 0 after `SHUTDOWN` and hardware reset; gates the producer operations (R11). -/
  enabled : Bool
  /-- 6-bit two's complement: -1 while awaiting a preamble, else the next bit slot to fill, 0..23 (R12). -/
  bitIndex : BitVec 6
  /-- The 24-bit value under construction; bit 23 is the first data bit received (R14). -/
  accumulator : BitVec Config.N_BITS
  /-- The tick count at the last observed edge, a `W`-bit value (R15). -/
  lastEdgeTicks : Nat
  /-- The level whose end the front end expects next (R16). -/
  pendingLevel : Level
  /-- The duration of the most recently ended HIGH level, a `W`-bit value (R17). -/
  lastHighTicks : Nat
  /-- The duration of the most recently ended LOW level, a `W`-bit value (R18). -/
  lastLowTicks : Nat
  /-- The address of the last completed frame (R19). -/
  address : BitVec Config.ADDR_BITS
  /-- The key of the last completed frame (R20). -/
  key : BitVec Config.KEY_BITS
  /-- Set by frame completion, cleared by `CLRDET`, `INIT` and hardware reset (R21). -/
  detected : Bool
deriving DecidableEq, Repr

/-- What the environment presents to the block: one command word at the command port (30_encoding.md R60), or one pulse of
the reset input, from its assertion to its release (70_reset_and_hazards.md R160, log 5). -/
inductive Event where
  /-- A command word at the command port, as a number. The port has `3 + 2W` lines, and no bit above them is ever looked at. -/
  | command (w : Nat)
  /-- The reset input asserted and released. -/
  | hardwareReset
deriving DecidableEq, Repr

/-- The block and, as the MODEL's own fields, the tick width it was built with (00_scope.md R7, log 1) and its ports: the stream of
events the environment's agents present, interleaved (20_memory.md R49, log 2), and the words the result port has put out
(30_encoding.md R67, log 4). -/
structure State extends Block where
  /-- The parameter `W`: the width in bits of a tick count. No step writes it. DESIGN CHOICE (log 1). -/
  W : Nat
  /-- The events not yet performed, oldest first. DESIGN CHOICE (log 2). -/
  events : List Event
  /-- The words put out by `READFRAME`, oldest first. DESIGN CHOICE (log 4). -/
  results : List ResultWord
deriving DecidableEq, Repr

/-- "The block raises no exception and no fault" (60_exceptions.md R135): there is no fault, so the type has no constructor. -/
inductive Fault : Type
deriving DecidableEq, Repr

/-- The reasons an instruction could be refused. -/
inductive Refusal where
  /-- An instruction without a meaning. Raised only by an arm of `exec` that rejects by name, and no arm does; safe. -/
  | notModelled (mnemonic : String)
deriving DecidableEq, Repr

/-- The column "hardware reset" of 10_state.md R30. -/
def Block.reset : Block where
  enabled := false
  bitIndex := -1
  accumulator := 0
  lastEdgeTicks := 0
  pendingLevel := .high
  lastHighTicks := 0
  lastLowTicks := 0
  address := 0
  key := 0
  detected := false

/-- A machine of tick width `W` after hardware reset (R30, R160): nothing presented yet, nothing put out yet (log 17). -/
def State.resetAt (W : Nat) : State := { Block.reset with W := W, events := [], results := [] }

/-- The machine of the default width after hardware reset. -/
def State.reset : State := State.resetAt Config.W_DEFAULT

end Sys2Proof.Machine
end

