-- ==== Sys2Proof/Machine/Operands.lean ====
section
/-! DEFINITION. The operand forms: the duration an edge's tick reading measures, and a duration passed saturated. (The operands of
`PAIR` are used as they are, exact numbers: 30_encoding.md R63, 41_pulse_pair.md R96.) -/

namespace Sys2Proof.Machine

/-- `(ticks - lastEdgeTicks) mod 2^W`, "the only modular arithmetic in the block" (43_edge_front_end.md R122). -/
def elapsed (W ticks lastEdgeTicks : Nat) : Nat :=
  (((ticks : Int) - (lastEdgeTicks : Int)) % ((2 ^ W : Nat) : Int)).toNat

/-- The operand a producer passes for a true duration of `d` ticks: a duration the operand cannot carry is passed saturated at
`2^W - 1`, "never as its low `W` bits" (70_reset_and_hazards.md R170). A duty of the producer, not a step of the block. -/
def saturatedTicks (W d : Nat) : Nat := min d (2 ^ W - 1)

end Sys2Proof.Machine
end

