-- ==== Sys2Proof/Machine/Flags.lean ====
section
/-! DEFINITION. The tests of the data path and the conditions read off the state: validation, preamble test, bit
classification, FSM state, sequence error, the class of a pair, and the level output. -/

namespace Sys2Proof.Machine

/-- The validation step: `MIN_PULSE_TICKS < h + l < MAX_PULSE_TICKS`, both bounds exclusive, exact arithmetic
(41_pulse_pair.md R92, R96; 90_conflicts.md C1). -/
def pairValid (h l : Nat) : Bool :=
  decide (Config.MIN_PULSE_TICKS < h + l) &&
    decide (h + l < Config.MAX_PULSE_TICKS)

/-- The preamble test: `25*h <= l` and `l <= 40*h`, both bounds inclusive, exact arithmetic (41_pulse_pair.md R94, R96). -/
def preambleMatch (h l : Nat) : Bool :=
  decide (Config.PRE_MIN_MULT * h ≤ l) &&
    decide (l ≤ Config.PRE_MAX_MULT * h)

/-- The bit classification: 1 when `2*h >= 3*l`, else 0, exact arithmetic (41_pulse_pair.md R97, R98, R96). -/
def bitValue (h l : Nat) : Bool :=
  decide (Config.BIT_NUM * l ≤ Config.BIT_DEN * h)

/-- The stored value of `bitIndex` in SEEKING_PREAMBLE: -1, `0b111111` (10_state.md R12). -/
def seekingIndex : BitVec 6 := -1

/-- The stored value of `bitIndex` while the last data bit is awaited (10_state.md R12; 41_pulse_pair.md R100). -/
def lastIndex : BitVec 6 := BitVec.ofNat 6 Config.EV_maxIndexData

/-- The two logical states of the decoder (10_state.md R13). -/
inductive FsmState where
  /-- `bitIndex = -1`. -/
  | seekingPreamble
  /-- `bitIndex` in 0..23. -/
  | collectingBits
deriving DecidableEq, Repr

/-- `fsmState` read off `bitIndex` (10_state.md R13). -/
def fsmState (b : Block) : FsmState :=
  if b.bitIndex = seekingIndex then .seekingPreamble else .collectingBits

/-- A bit is being collected and it is the one of slot `k` (10_state.md R12, R13): `bitIndex = k`, 0 <= k <= 23. -/
def collectingSlot (b : Block) (k : Nat) : Bool :=
  decide (k ≤ Config.EV_maxIndexData) && decide (b.bitIndex = BitVec.ofNat 6 k)

/-- Error condition E4: an edge that ends the level `ended` while another level's end is expected (43_edge_front_end.md R124;
60_exceptions.md R139). -/
def sequenceError (b : Block) (ended : Level) : Bool := decide (b.pendingLevel ≠ ended)

/-- The classification one pair receives, "a reading aid" and no output (30_encoding.md R67). -/
inductive PairClass where
  /-- `enabled = 0` (41_pulse_pair.md R91). -/
  | ignored
  /-- E1, and E3 while collecting (60_exceptions.md R136, R138). -/
  | invalid
  /-- A preamble (41_pulse_pair.md R94). -/
  | preamble
  /-- E2 (60_exceptions.md R137). -/
  | noMatch
  /-- A data bit that does not complete the frame (41_pulse_pair.md R97). -/
  | bit (value : Bool)
  /-- The data bit that completes the frame (41_pulse_pair.md R100). -/
  | frame (value : Bool)
deriving DecidableEq, Repr

/-- The order of tests inside one producer operation, first match wins (60_exceptions.md R143). -/
def classify (b : Block) (h l : Nat) : PairClass :=
  if b.enabled then
    if pairValid h l then
      if b.bitIndex = seekingIndex then
        if preambleMatch h l then .preamble else .noMatch
      else if b.bitIndex = lastIndex then .frame (bitValue h l)
      else .bit (bitValue h l)
    else .invalid
  else .ignored

/-- The level output that continuously shows `detected` (20_memory.md R41, 60_exceptions.md R141). -/
def detectedOutput (b : Block) : Bool := b.detected

/-- The numeric coding of a level, `LOW` = 0 and `HIGH` = 1 (10_state.md R16). -/
def levelBit : Level → BitVec 1
  | .low => 0
  | .high => 1

end Sys2Proof.Machine
end

