-- ==== Sys2Proof/Machine/Ops.lean ====
section
/-! DEFINITION. The named operations over the block's state elements, which every meaning is written with. All writes of one
operation take effect together, and each reads the state from before it (00_scope.md R8). -/

namespace Sys2Proof.Machine

/-- `AbortToSeeking()`, the block's one response to an error: "the whole trap entry" (60_exceptions.md R144). It saves nothing,
writes `bitIndex` and `accumulator` and nothing else (41_pulse_pair.md R93). There is no return from it (60_exceptions.md R145). -/
def abortToSeeking (b : Block) : Block := { b with bitIndex := seekingIndex, accumulator := 0 }

/-- A preamble match: to COLLECTING_BITS with `bitIndex` 0 and a clear accumulator (41_pulse_pair.md R94). -/
def startCollecting (b : Block) : Block := { b with bitIndex := 0, accumulator := 0 }

/-- The accumulator with bit `23 - index` replaced by `bit` (41_pulse_pair.md R99). An index that is no bit slot (not a legal value
of `bitIndex`, 10_state.md R12) names no bit, and none is replaced: DESIGN CHOICE (log 7), safe. -/
def placeBit (accumulator : BitVec Config.N_BITS) (index : BitVec 6) (bit : Bool) : BitVec Config.N_BITS :=
  if index.toNat ≤ Config.EV_maxIndexData then
    let position := Config.EV_maxIndexData - index.toNat
    (accumulator &&& ~~~(1#Config.N_BITS <<< position)) ||| ((BitVec.ofBool bit).setWidth Config.N_BITS <<< position)
  else accumulator

/-- A data bit that does not complete the frame: placed, and the next slot awaited (41_pulse_pair.md R90, R99). -/
def storeBit (bit : Bool) (b : Block) : Block :=
  { b with accumulator := placeBit b.accumulator b.bitIndex bit, bitIndex := b.bitIndex + 1 }

/-- Frame completion: the completed value is split, bits 23..4 to `address` and bits 3..0 to `key`, `detected` set, and the
machine back in SEEKING_PREAMBLE (41_pulse_pair.md R100). The write is unconditional (R101). -/
def completeFrame (value : BitVec Config.N_BITS) (b : Block) : Block :=
  { b with
    address := value.extractLsb' Config.KEY_BITS Config.ADDR_BITS
    key := value.extractLsb' 0 Config.KEY_BITS
    detected := true
    bitIndex := seekingIndex
    accumulator := 0 }

/-- `PairProcedure(h, l)`, shared by `PAIR` and `EDGER` (41_pulse_pair.md R90). -/
def pairProcedure (h l : Nat) (b : Block) : Block :=
  if pairValid h l then
    if b.bitIndex = seekingIndex then
      if preambleMatch h l then startCollecting b else b
    else if b.bitIndex = lastIndex then
      completeFrame (placeBit b.accumulator b.bitIndex (bitValue h l)) b
    else storeBit (bitValue h l) b
  else abortToSeeking b

/-- The enable gate of the producer operations: while `enabled = 0` they change no state (41_pulse_pair.md R91,
43_edge_front_end.md R121). -/
def whenEnabled (operation : Block → Block) (b : Block) : Block :=
  if b.enabled then operation b else b

/-- A falling edge's measurement: the HIGH level that ended (43_edge_front_end.md R122, R123). -/
def measureHigh (W ticks : Nat) (b : Block) : Block :=
  { b with lastEdgeTicks := ticks, lastHighTicks := elapsed W ticks b.lastEdgeTicks }

/-- A rising edge's measurement: the LOW level that ended (43_edge_front_end.md R122, R125). -/
def measureLow (W ticks : Nat) (b : Block) : Block :=
  { b with lastEdgeTicks := ticks, lastLowTicks := elapsed W ticks b.lastEdgeTicks }

/-- The level whose end is expected next (43_edge_front_end.md R124). -/
def expectLevel (level : Level) (b : Block) : Block := { b with pendingLevel := level }

/-- DecoderState and the front-end registers at their initial values (40_lifecycle.md R80, R82). -/
def clearDecoder (b : Block) : Block :=
  { b with
    bitIndex := seekingIndex
    accumulator := 0
    lastEdgeTicks := 0
    pendingLevel := .high
    lastHighTicks := 0
    lastLowTicks := 0 }

/-- DecodedFrame at its initial values (40_lifecycle.md R80). -/
def clearFrame (b : Block) : Block := { b with address := 0, key := 0, detected := false }

/-- `enabled <- value` (10_state.md R11). -/
def setEnabled (value : Bool) (b : Block) : Block := { b with enabled := value }

/-- `detected <- 0` (42_consumer.md R112). -/
def clearDetected (b : Block) : Block := { b with detected := false }

/-- Hardware reset of the ten elements (70_reset_and_hazards.md R160): the column "hardware reset" of 10_state.md R30. -/
def hardwareReset (b : Block) : Block := setEnabled false (clearFrame (clearDecoder b))

/-- The packed view `FRAME` of DecodedFrame: `key` in bits 3..0, `address` in 23..4, `detected` in 24, zeros above
(10_state.md R23). -/
def frameWord (b : Block) : ResultWord :=
  ((BitVec.ofBool b.detected).setWidth 32 <<< 24) ||| (b.address.setWidth 32 <<< Config.KEY_BITS) |||
    b.key.setWidth 32

/-- An operation that writes state elements only: the ports keep what they hold. -/
def onBlock (operation : Block → Block) (s : State) : State := { s with toBlock := operation s.toBlock }

/-- The result port puts out one word (30_encoding.md R67). -/
def putResult (w : ResultWord) (s : State) : State := { s with results := s.results ++ [w] }

end Sys2Proof.Machine
end

