-- ==== Sys2Proof/Machine/Consumer.lean ====
section
/-! DEFINITION. The consumer operations `READFRAME` and `CLRDET` (42_consumer.md). -/

namespace Sys2Proof.Machine

/-- `READFRAME` (42_consumer.md R110): `FRAME` on the result port, no state change. It does not read `enabled` (R111). -/
def execReadframe (s : State) : Host.Outcome State Fault Refusal :=
  .next (putResult (frameWord s.toBlock) s)

/-- `CLRDET` (42_consumer.md R112): `detected <- 0`, unconditionally (R113). -/
def execClrdet (s : State) : Host.Outcome State Fault Refusal := .next (onBlock clearDetected s)

end Sys2Proof.Machine
end

