-- ==== Sys2Proof/Machine/EdgeFrontEnd.lean ====
section
/-! DEFINITION. The edge front end, `EDGER` and `EDGEF` (43_edge_front_end.md). Every rule of that file is the spec's own decision
(D16 to D18, log 14). -/

namespace Sys2Proof.Machine

/-- A falling edge while enabled (43_edge_front_end.md R123): the HIGH level is measured, an edge out of sequence aborts (R124),
and a LOW level is expected to end next. -/
def fallingEdge (W ticks : Nat) (b : Block) : Block :=
  let measured := measureHigh W ticks b
  expectLevel .low (if sequenceError b .high then abortToSeeking measured else measured)

/-- A rising edge while enabled (43_edge_front_end.md R125): the LOW level is measured; in sequence, the pair procedure runs on the
stored HIGH duration and the LOW duration just measured; out of sequence, there is no pair and the machine aborts (R124); a HIGH
level is expected to end next. -/
def risingEdge (W ticks : Nat) (b : Block) : Block :=
  let measured := measureLow W ticks b
  expectLevel .high
    (if sequenceError b .low then abortToSeeking measured
     else pairProcedure b.lastHighTicks (elapsed W ticks b.lastEdgeTicks) measured)

/-- `EDGER ticks` (43_edge_front_end.md R125), behind the enable gate (R121). -/
def execEdger (ticks : Nat) (s : State) : Host.Outcome State Fault Refusal :=
  .next (onBlock (whenEnabled (risingEdge s.W ticks)) s)

/-- `EDGEF ticks` (43_edge_front_end.md R123), behind the enable gate (R121). -/
def execEdgef (ticks : Nat) (s : State) : Host.Outcome State Fault Refusal :=
  .next (onBlock (whenEnabled (fallingEdge s.W ticks)) s)

end Sys2Proof.Machine
end

