-- ==== Sys2Proof/Machine/Lifecycle.lean ====
section
/-! DEFINITION. The reserved opcode and the host operations `INIT` and `SHUTDOWN` (30_encoding.md R65, 40_lifecycle.md). -/

namespace Sys2Proof.Machine

/-- The reserved opcode "changes no state, returns no result and reports no error" (30_encoding.md R65). The spec also allows a
refusal; the model runs it. DESIGN CHOICE (log 6). -/
def execReserved (s : State) : Host.Outcome State Fault Refusal := .next s

/-- `INIT` (40_lifecycle.md R80): writes all ten elements and reads none (R81). -/
def execInit (s : State) : Host.Outcome State Fault Refusal :=
  .next (onBlock (fun b => setEnabled true (clearFrame (clearDecoder b))) s)

/-- `SHUTDOWN` (40_lifecycle.md R82): DecodedFrame is left as it is. -/
def execShutdown (s : State) : Host.Outcome State Fault Refusal :=
  .next (onBlock (fun b => setEnabled false (clearDecoder b)) s)

end Sys2Proof.Machine
end

