-- ==== Sys2Proof/Machine/PulsePair.lean ====
section
/-! DEFINITION. The data-path operation `PAIR` (41_pulse_pair.md). -/

namespace Sys2Proof.Machine

/-- `PAIR highTicks, lowTicks` (41_pulse_pair.md R90): the enable gate (R91), then the pair procedure. -/
def execPair (highTicks lowTicks : Nat) (s : State) : Host.Outcome State Fault Refusal :=
  .next (onBlock (whenEnabled (pairProcedure highTicks lowTicks)) s)

end Sys2Proof.Machine
end

