-- ==== Sys2Proof/Machine/Dispatch.lean ====
section
/-! DEFINITION. One arm per constructor of `Instr`: the meaning of each operation (30_encoding.md R62). -/

namespace Sys2Proof.Machine

def exec (i : Instr) (s : State) : Host.Outcome State Fault Refusal :=
  match i with
  | .reserved => Sys2Proof.Machine.execReserved s
  | .init => Sys2Proof.Machine.execInit s
  | .shutdown => Sys2Proof.Machine.execShutdown s
  | .pair highTicks lowTicks => Sys2Proof.Machine.execPair highTicks lowTicks s
  | .readframe => Sys2Proof.Machine.execReadframe s
  | .clrdet => Sys2Proof.Machine.execClrdet s
  | .edger ticks => Sys2Proof.Machine.execEdger ticks s
  | .edgef ticks => Sys2Proof.Machine.execEdgef ticks s

end Sys2Proof.Machine
end

