-- ==== Sys2Proof/Machine/Fetch.lean ====
section
/-! DEFINITION. The inbound ports: how the environment's events come to the block, one at a time, in the order presented
(20_memory.md R48 to R50). The block fetches no instruction (00_scope.md R2). -/

namespace Sys2Proof.Machine

/-- The oldest event presented and the state without it; `none` when nothing is presented. -/
def takeEvent (s : State) : Option (Event × State) :=
  match s.events with
  | [] => none
  | e :: rest => some (e, { s with events := rest })

/-- The environment presents `es` before everything it has presented so far. -/
def present (es : List Event) (s : State) : State := { s with events := es ++ s.events }

/-- A number presented as the next command word. A number that is no command word of this machine (30_encoding.md R60) cannot be presented, and
nothing is (log 15). -/
def presentNumber (n : Nat) (s : State) : State :=
  if fitsCommandWord s.W n then present [.command n] s else s

end Sys2Proof.Machine
end

