-- ==== Sys2Proof/Machine/Step.lean ====
section
/-! DEFINITION. One step of the block: the oldest event presented is performed to completion (20_memory.md R48). -/

namespace Sys2Proof.Machine

/-- One step: a command word is decoded and its operation performed; a pulse of the reset input resets the ten elements
(70_reset_and_hazards.md R160); with nothing presented "the block waits for commands" (R161, log 3). -/
def step (s : State) : Host.Outcome State Fault Refusal :=
  match takeEvent s with
  | none => .next s
  | some (.command w, waiting) => exec (decode waiting.W w) waiting
  | some (.hardwareReset, waiting) => .next (onBlock hardwareReset waiting)

/-- The host's placing of one instruction: the `nbits` low bits of `w` presented as the next command word. It stands for the
environment presenting that command (log 17). -/
def State.withFetchWord (s : State) (nbits w : Nat) : State := presentNumber (w % 2 ^ nbits) s

end Sys2Proof.Machine
end

