-- ==== Sys2Proof/Machine/Trace.lean ====
section
/-! DEFINITION. The textual form of an operation stream and the pseudo-operations (30_encoding.md R68, R69): shorthands of the
environment, which add nothing to the block. -/

namespace Sys2Proof.Machine

/-- The mnemonic of an operation, as spec/opcode_table.json spells it (30_encoding.md R62). -/
def mnemonic : Instr → String
  | .reserved => "RESERVED"
  | .init => "INIT"
  | .shutdown => "SHUTDOWN"
  | .pair _ _ => "PAIR"
  | .readframe => "READFRAME"
  | .clrdet => "CLRDET"
  | .edger _ => "EDGER"
  | .edgef _ => "EDGEF"

/-- The line of the trace form for an operation (R68), operands in decimal. The reserved opcode has none. -/
def traceLine : Instr → Option String
  | .reserved => none
  | .init => some "INIT"
  | .shutdown => some "SHUTDOWN"
  | .pair h l => some ("PAIR " ++ h.repr ++ ", " ++ l.repr)
  | .readframe => some "READFRAME"
  | .clrdet => some "CLRDET"
  | .edger t => some ("EDGER " ++ t.repr)
  | .edgef t => some ("EDGEF " ++ t.repr)

/-- The eight hexadecimal digits of a result word, most significant first, with capitals as R68 writes them. -/
def hexDigits (w : ResultWord) : List Char :=
  [7, 6, 5, 4, 3, 2, 1, 0].map fun i => (Nat.digitChar (w.extractLsb' (4 * i) 4).toNat).toUpper

/-- The annotation "result written after '->'" of a `READFRAME` line (R68). -/
def resultText (w : ResultWord) : String := "-> FRAME=0x" ++ String.ofList (hexDigits w)

/-- Why a line of text is no operation of R68. -/
inductive TraceError where
  /-- The line's first word is no mnemonic of R68. -/
  | unknownOperation
  /-- An operand is no decimal or `0x` hexadecimal number. -/
  | notANumber
  /-- An operand is `2^W` or more. -/
  | operandOutOfRange
  /-- The operation does not take these operands. -/
  | wrongOperands
deriving DecidableEq, Repr

/-- Ends the word being read, `word` holding its characters last first. -/
def endWord (word : List Char) (rest : List (List Char)) : List (List Char) :=
  if word = [] then rest else word.reverse :: rest

/-- A line's words: blanks separate them, a comma is a word of its own, `;` starts a comment (R68). -/
def traceWords : List Char → List Char → List (List Char)
  | [], word => endWord word []
  | c :: rest, word =>
    if c = ';' then endWord word []
    else if c = ' ' ∨ c = '\t' then endWord word (traceWords rest [])
    else if c = ',' then endWord word ([','] :: traceWords rest [])
    else traceWords rest (c :: word)

/-- The value of one digit in a base up to 16. -/
def digitValue (base : Nat) (c : Char) : Option Nat :=
  let value :=
    if '0' ≤ c ∧ c ≤ '9' then c.toNat - '0'.toNat
    else if 'a' ≤ c ∧ c ≤ 'f' then c.toNat - 'a'.toNat + 10
    else if 'A' ≤ c ∧ c ≤ 'F' then c.toNat - 'A'.toNat + 10
    else base
  if value < base then some value else none

/-- The value of a digit string, most significant digit first, after `value` was read. -/
def digitsValue (base : Nat) : List Char → Nat → Option Nat
  | [], value => some value
  | c :: rest, value =>
    match digitValue base c with
    | some d => digitsValue base rest (base * value + d)
    | none => none

/-- A decimal or `0x` hexadecimal non-negative integer (R68). -/
def numberValue : List Char → Option Nat
  | [] => none
  | ['0', 'x'] => none
  | '0' :: 'x' :: ds => digitsValue 16 ds 0
  | ds => digitsValue 10 ds 0

/-- An operand: a number below `2^W` (R68). -/
def traceOperand (W : Nat) (word : List Char) : Except TraceError Nat :=
  match numberValue word with
  | some n => if operandInRange W n then .ok n else .error .operandOutOfRange
  | none => .error .notANumber

/-- An operation of format N: no operand. -/
def traceN (i : Instr) (args : List (List Char)) : Except TraceError (Option Instr) :=
  if args = [] then .ok (some i) else .error .wrongOperands

/-- An operation of format E: one operand. -/
def traceE (W : Nat) (operation : Nat → Instr) : List (List Char) → Except TraceError (Option Instr)
  | [t] =>
    match traceOperand W t with
    | .ok ticks => .ok (some (operation ticks))
    | .error e => .error e
  | _ => .error .wrongOperands

/-- An operation of format P: two operands with a comma between them. -/
def traceP (W : Nat) (operation : Nat → Nat → Instr) : List (List Char) → Except TraceError (Option Instr)
  | [h, [','], l] =>
    match traceOperand W h, traceOperand W l with
    | .ok highTicks, .ok lowTicks => .ok (some (operation highTicks lowTicks))
    | .error e, _ => .error e
    | _, .error e => .error e
  | _ => .error .wrongOperands

/-- One line of a trace (R68): no operation on a line that is empty but for a comment; a `READFRAME` line may carry its result
after `->`. Blanks and capitals as log 19 says. -/
def readTraceLine (W : Nat) (line : List Char) : Except TraceError (Option Instr) :=
  match traceWords line [] with
  | [] => .ok none
  | name :: args =>
    if name = "INIT".toList then traceN .init args
    else if name = "SHUTDOWN".toList then traceN .shutdown args
    else if name = "PAIR".toList then traceP W .pair args
    else if name = "READFRAME".toList then
      traceN .readframe (if args.head? = some ['-', '>'] then [] else args)
    else if name = "CLRDET".toList then traceN .clrdet args
    else if name = "EDGER".toList then traceE W .edger args
    else if name = "EDGEF".toList then traceE W .edgef args
    else .error .unknownOperation

/-- `PRE T`: `PAIR T, 31*T` (R69). Like every pseudo-operation it is a well-formed operation only where its durations are below `2^W`
(log 19). -/
def pseudoPre (T : Nat) : List Instr := [.pair T (31 * T)]

/-- `BIT0 T`: `PAIR T, 3*T` (R69). -/
def pseudoBit0 (T : Nat) : List Instr := [.pair T (3 * T)]

/-- `BIT1 T`: `PAIR 3*T, T` (R69). -/
def pseudoBit1 (T : Nat) : List Instr := [.pair (3 * T) T]

/-- The `count` low bits of `value`, the most significant of them first, each as `BIT1 T` or `BIT0 T` (R69). -/
def sendBits (T : Nat) (value : BitVec Config.N_BITS) : Nat → List Instr
  | 0 => []
  | i + 1 => (if value.getLsbD i then pseudoBit1 T else pseudoBit0 T) ++ sendBits T value i

/-- `SENDFRAME T, addr, key`: `PRE T`, then the 24 bits of `(addr << 4) | key`, bit 23 first (R69). -/
def pseudoSendFrame (T : Nat) (addr : BitVec Config.ADDR_BITS) (key : BitVec Config.KEY_BITS) : List Instr :=
  pseudoPre T ++
    sendBits T (addr.setWidth Config.N_BITS <<< Config.KEY_BITS ||| key.setWidth Config.N_BITS) Config.N_BITS

/-- `GLITCH`: `PAIR 0, 0` (R69). -/
def pseudoGlitch : List Instr := [.pair 0 0]

/-- `TAKEFRAME`: `READFRAME` then `CLRDET` (R69). That no producer or host operation stands between them is the platform's duty
(20_memory.md R53). -/
def pseudoTakeFrame : List Instr := [.readframe, .clrdet]

end Sys2Proof.Machine
end

