-- ==== Sys2Proof/Safety.lean ====
section
/-! DEFINITION. The terms claims use: the invariants of 10_state.md R29, the roles of the environment's agents, the pair an
operation submits to the pair procedure, and streams of operations. -/

namespace Sys2Proof.Machine

/-- I1: `-1 <= bitIndex <= 23` (10_state.md R29). -/
abbrev Block.IndexInRange (b : Block) : Prop := -1 ≤ b.bitIndex.toInt ∧ b.bitIndex.toInt ≤ 23

/-- I2: `bitIndex = -1` implies `accumulator = 0` (10_state.md R29). -/
abbrev Block.SeekingIsClear (b : Block) : Prop := b.bitIndex = seekingIndex → b.accumulator = 0

/-- I3: `bitIndex = k` with `0 <= k <= 23` implies `accumulator[23-k:0] = 0` (10_state.md R29): every accumulator bit `i` with
`i <= 23 - k` is 0. -/
abbrev Block.UnfilledSlotsClear (b : Block) : Prop :=
  ∀ i, i < Config.N_BITS → i + b.bitIndex.toNat ≤ Config.EV_maxIndexData → b.accumulator.getLsbD i = false

/-- I4: `enabled = 0` implies that DecoderState and the front end have their initial values (10_state.md R29). -/
abbrev Block.DisabledIsClear (b : Block) : Prop :=
  b.enabled = false →
    b.bitIndex = seekingIndex ∧ b.accumulator = 0 ∧ b.lastEdgeTicks = 0 ∧ b.pendingLevel = .high ∧
      b.lastHighTicks = 0 ∧ b.lastLowTicks = 0

/-- The state invariants I1 to I4 of 10_state.md R29 together. (I5 is about a step and I6 about the view `FRAME`.) -/
structure Block.Inv (b : Block) : Prop where
  /-- I1. -/
  indexInRange : b.IndexInRange
  /-- I2. -/
  seekingIsClear : b.SeekingIsClear
  /-- I3. -/
  unfilledSlotsClear : b.UnfilledSlotsClear
  /-- I4. -/
  disabledIsClear : b.DisabledIsClear

/-- The three front-end registers are `W`-bit values (10_state.md R10). -/
abbrev Block.TicksFit (W : Nat) (b : Block) : Prop :=
  b.lastEdgeTicks < 2 ^ W ∧ b.lastHighTicks < 2 ^ W ∧ b.lastLowTicks < 2 ^ W

/-- The invariant of a state: a legal tick width (00_scope.md R7), registers that fit it, and I1 to I4; the ports may hold
anything. -/
structure State.Inv (s : State) : Prop where
  /-- `W >= 14`. -/
  widthLegal : Config.W_MIN ≤ s.W
  /-- The register widths of 10_state.md R10. -/
  ticksFit : s.toBlock.TicksFit s.W
  /-- I1 to I4. -/
  block : s.toBlock.Inv

/-- The environment's agents by convention; the block checks none (60_exceptions.md R146). -/
inductive Role where
  /-- Presents `PAIR`, `EDGER`, `EDGEF`. -/
  | producer
  /-- Presents `READFRAME`, `CLRDET`. -/
  | consumer
  /-- Presents `INIT`, `SHUTDOWN`. -/
  | host
deriving DecidableEq, Repr

/-- The agent that presents an operation (60_exceptions.md R146); none presents the reserved opcode. -/
def role : Instr → Option Role
  | .reserved => none
  | .init => some .host
  | .shutdown => some .host
  | .pair _ _ => some .producer
  | .readframe => some .consumer
  | .clrdet => some .consumer
  | .edger _ => some .producer
  | .edgef _ => some .producer

/-- The pair that an operation submits to the pair procedure: `PAIR` its operands, an `EDGER` in sequence the stored HIGH
duration and the LOW duration it measures (43_edge_front_end.md R125), every other operation none. -/
def submittedPair (W : Nat) (b : Block) : Instr → Option (Nat × Nat)
  | .reserved => none
  | .init => none
  | .shutdown => none
  | .pair h l => some (h, l)
  | .readframe => none
  | .clrdet => none
  | .edger ticks =>
    if sequenceError b .low then none else some (b.lastHighTicks, elapsed W ticks b.lastEdgeTicks)
  | .edgef _ => none

/-- The operation is an edge of the kind that does not come next: error condition E4 (43_edge_front_end.md R124). -/
def edgeOutOfSequence (b : Block) : Instr → Bool
  | .reserved => false
  | .init => false
  | .shutdown => false
  | .pair _ _ => false
  | .readframe => false
  | .clrdet => false
  | .edger _ => sequenceError b .low
  | .edgef _ => sequenceError b .high

/-- The operation an event performs on a block of width `W`, if it is a command. -/
def eventOperation (W : Nat) : Event → Option Instr
  | .command w => some (decode W w)
  | .hardwareReset => none

/-- The event is not an operation of the consumer. -/
def notOfConsumer (W : Nat) (e : Event) : Bool :=
  match eventOperation W e with
  | some i => decide (role i ≠ some .consumer)
  | none => true

/-- The operation completes a frame with the 24-bit value `value`: the block is enabled, the last data bit is awaited, the pair
submitted is valid, and `value` is the accumulator with bit 0 replaced by the pair's bit (41_pulse_pair.md R100). -/
def CompletesFrame (W : Nat) (b : Block) (i : Instr) (value : BitVec Config.N_BITS) : Prop :=
  ∃ h l, submittedPair W b i = some (h, l) ∧ b.enabled = true ∧ b.bitIndex = lastIndex ∧ pairValid h l = true ∧
    value.getLsbD 0 = bitValue h l ∧ ∀ n, 1 ≤ n → value.getLsbD n = b.accumulator.getLsbD n

/-- The events that present these operations, each in its canonical command word. -/
def commandEvents (W : Nat) (is : List Instr) : List Event := is.map fun i => .command (encode W i)

/-- The part of a block that decoding a frame at the `PAIR` boundary concerns: everything but the four front-end elements
(43_edge_front_end.md R126). -/
def SameDecoder (b c : Block) : Prop :=
  b.enabled = c.enabled ∧ b.bitIndex = c.bitIndex ∧ b.accumulator = c.accumulator ∧ b.address = c.address ∧
    b.key = c.key ∧ b.detected = c.detected

/-- A stream of pairs as `PAIR` operations. -/
def pairsAsPair : List (Nat × Nat) → List Instr
  | [] => []
  | (h, l) :: rest => .pair h l :: pairsAsPair rest

/-- The same stream as edges of a line whose last edge came at tick reading `last`: a falling edge `h` ticks later ends the HIGH
level, a rising edge `l` ticks after that ends the LOW level, all modulo `2^W` (43_edge_front_end.md R120, R122). -/
def pairsAsEdges (W last : Nat) : List (Nat × Nat) → List Instr
  | [] => []
  | (h, l) :: rest => .edgef ((last + h) % 2 ^ W) :: .edger ((last + h + l) % 2 ^ W) :: pairsAsEdges W ((last + h + l) % 2 ^ W) rest

end Sys2Proof.Machine
end

