-- ==== Sys2Proof/Certificates/Slice0/Obligations.lean ====
section
/-! DEFINITION. The statements for the provers, one `def Obligations.<Name> : Prop` each, in the order of the spec's files. A docstring
names the rule of spec/ a statement is about; where a clause rests on a choice the spec marks as its own (a decision D<n>) or on one
of this model's log entries, it says so. -/

open Sys2Proof Sys2Proof.Machine

/- Encoding (30_encoding.md), for every tick width `W` (00_scope.md R7, the spec's decision D1). -/

/-- At every tick width, decode and encode agree on every well-formed operation with every operand, and the encoding is a command
word (R60, R62, R63; the spec's decision D12). -/
def Obligations.DecodeOfEncodeIsIdentity : Prop :=
  ∀ (W : Nat) (i : Instr), i.wellFormed W = true →
    fitsCommandWord W (encode W i) = true ∧ decode W (encode W i) = i

/-- A number is recovered from the operation it decodes to exactly when it is a command word whose ignored fields are zero (R60, R64;
the spec's decisions D12 and D14). -/
def Obligations.EncodeOfDecodeExactlyOnCanonicalWords : Prop :=
  ∀ W w : Nat,
    encode W (decode W w) = w ↔ fitsCommandWord W w = true ∧ CommandWord.isCanonical W w = true

/-- Every word decodes to a well-formed operation: there is no illegal encoding and no illegal operand (R63, R66; the spec's decision
D12). -/
def Obligations.EveryWordDecodesToAWellFormedOperation : Prop :=
  ∀ W w : Nat, (decode W w).wellFormed W = true

/-- Two words with the same `op`, and the same operands where the format uses them, are the same operation: any bit pattern in an
ignored field "selects the same operation" (R64; the spec's decision D14). -/
def Obligations.IgnoredFieldsCarryNothing : Prop :=
  ∀ W v w : Nat, CommandWord.op W v = CommandWord.op W w →
    ((decode W w).format = .P → CommandWord.fieldA W v = CommandWord.fieldA W w) →
    ((decode W w).format ≠ .N → CommandWord.fieldB W v = CommandWord.fieldB W w) →
    decode W v = decode W w

/-- Words written out from the spec's table V-ENC, which is for `W = 16`, decode to the operations they stand for, and so do two words
written out by R60 for `W = 14` (R60, R62; the spec's decision D12). -/
def Obligations.WrittenOutWordsDecode : Prop :=
  decode 16 0x100000000 = .init ∧ decode 16 0x1FFFFFFFF = .init ∧ decode 16 0x200000000 = .shutdown ∧
    decode 16 0x300FA1E46 = .pair 250 7750 ∧ decode 16 0x400000000 = .readframe ∧ decode 16 0x500000000 = .clrdet ∧
    decode 16 0x6ABCD1234 = .edger 0x1234 ∧ decode 16 0x70000EB5A = .edgef 60250 ∧
    decode 16 0x0FFFFFFFF = .reserved ∧ decode 14 0x303E9E46 = .pair 250 7750 ∧ decode 14 0x70003FFF = .edgef 16383

/-- The reserved opcode changes nothing and puts nothing out, whatever the rest of the word holds (R65: the spec lets a model
run it or refuse it, D13; that it runs is the model's choice, log 6). -/
def Obligations.ReservedOpcodeChangesNothing : Prop :=
  (∀ s : State, exec .reserved s = .next s) ∧
    ∀ W w : Nat, CommandWord.op W w = 0 → decode W w = .reserved

/- The step (20_memory.md, 70_reset_and_hazards.md). -/

/-- A step performs the operation of the oldest word presented, and takes that word off the stream (R48, R49; the stream is the
model's own field, log 2). -/
def Obligations.StepPerformsTheDecodedOperation : Prop :=
  ∀ (s : State) (w : Nat) (rest : List Event) (i : Instr),
    s.events = .command w :: rest → decode s.W w = i → i.wellFormed s.W = true →
      step s = exec i { s with events := rest }

/-- With nothing presented the block waits and its state stays (R161, R162; that a step is possible then is the model's
choice, log 3). -/
def Obligations.StepWaitsForCommands : Prop :=
  ∀ s : State, s.events = [] → step s = .next s

/-- A pulse of the reset input leaves the ten elements at their reset values, from every state, and takes nothing else off the
stream (R160, the spec's decision D10; one step for the whole pulse is the model's choice, log 5). -/
def Obligations.HardwareResetLeavesTheResetValues : Prop :=
  ∀ (s : State) (rest : List Event), s.events = .hardwareReset :: rest →
    step s = .next
      { enabled := false, bitIndex := -1, accumulator := 0, lastEdgeTicks := 0, pendingLevel := .high,
        lastHighTicks := 0, lastLowTicks := 0, address := 0, key := 0, detected := false,
        W := s.W, events := rest, results := s.results }

/-- No run ever stops: after `k` steps from any state the block has a next state, its tick width is the one it was built with, and
`k` events fewer wait, or none (60_exceptions.md R135, R152). That a step with nothing presented answers the same state is the model's
choice (log 3), and so are the stream (log 2) and that the reserved opcode is run and not refused (log 6). -/
def Obligations.RunsNeverStop : Prop :=
  ∀ (k : Nat) (s : State), ∃ t : State, Sys2Proof.core.run k s = .next t ∧ t.W = s.W ∧ t.events = s.events.drop k

/- Invariants (10_state.md R29). -/

/-- At every legal tick width the hardware-reset state meets the invariants I1 to I4, and its registers fit the width (R29, R30; reset
values by the spec's decision D10). `State.reset` is that state at the default width (R7). -/
def Obligations.ResetMeetsTheInvariant : Prop :=
  (∀ W : Nat, Config.W_MIN ≤ W → (State.resetAt W).Inv) ∧ State.reset = State.resetAt Config.W_DEFAULT ∧ State.reset.Inv

/-- Every step keeps the legal tick width, the register widths and the invariants I1 to I4, from every state that meets them (R7, R10,
R29). -/
def Obligations.StepKeepsTheInvariant : Prop :=
  ∀ s t : State, s.Inv → step s = .next t → t.Inv

/-- The whole transition function of `bitIndex` (41_pulse_pair.md R102; INIT, SHUTDOWN and reset by R30; a sequence error by the spec's
decision D18; the enable gate by D9): which events return it to -1, which start a frame, which advance the slot, and that every other
event leaves it as it is. (With nothing presented: log 3.) -/
def Obligations.BitIndexFollowsTheTransitionTable : Prop :=
  ∀ s : State, ∃ t : State, step s = .next t ∧
    (s.events = [] → t.bitIndex = s.bitIndex) ∧
    (∀ rest, s.events = .hardwareReset :: rest → t.bitIndex = -1) ∧
    ∀ w rest, s.events = .command w :: rest →
      (decode s.W w = .init ∨ decode s.W w = .shutdown → t.bitIndex = -1) ∧
      (s.enabled = true → edgeOutOfSequence s.toBlock (decode s.W w) = true → t.bitIndex = -1) ∧
      (∀ h l, s.enabled = true → submittedPair s.W s.toBlock (decode s.W w) = some (h, l) →
        (h + l ≤ Config.MIN_PULSE_TICKS ∨ Config.MAX_PULSE_TICKS ≤ h + l → t.bitIndex = -1) ∧
        (Config.MIN_PULSE_TICKS < h + l → h + l < Config.MAX_PULSE_TICKS →
          (s.bitIndex = -1 → Config.PRE_MIN_MULT * h ≤ l → l ≤ Config.PRE_MAX_MULT * h → t.bitIndex = 0) ∧
          (s.bitIndex = -1 → l < Config.PRE_MIN_MULT * h ∨ Config.PRE_MAX_MULT * h < l → t.bitIndex = -1) ∧
          (∀ k : Nat, k ≤ 22 → s.bitIndex = BitVec.ofNat 6 k → t.bitIndex = BitVec.ofNat 6 (k + 1)) ∧
          (s.bitIndex = 23 → t.bitIndex = -1))) ∧
      (decode s.W w ≠ .init → decode s.W w ≠ .shutdown →
        s.enabled = false ∨
          (edgeOutOfSequence s.toBlock (decode s.W w) = false ∧ submittedPair s.W s.toBlock (decode s.W w) = none) →
        t.bitIndex = s.bitIndex)

/-- The only targets of `bitIndex` are itself, -1, 0 and k+1, and there is "no way to enter COLLECTING_BITS except through a preamble
match at `bitIndex = -1`" (41_pulse_pair.md R102). -/
def Obligations.OnlyAPreambleStartsCollecting : Prop :=
  ∀ s t : State, s.IndexInRange → step s = .next t →
    t.bitIndex = s.bitIndex ∨ t.bitIndex = -1 ∨
    ∃ w rest h l, s.events = .command w :: rest ∧ submittedPair s.W s.toBlock (decode s.W w) = some (h, l) ∧
      s.enabled = true ∧ Config.MIN_PULSE_TICKS < h + l ∧ h + l < Config.MAX_PULSE_TICKS ∧
      ((s.bitIndex = -1 ∧ t.bitIndex = 0 ∧ t.accumulator = 0 ∧ Config.PRE_MIN_MULT * h ≤ l ∧
          l ≤ Config.PRE_MAX_MULT * h) ∨
        (∃ k : Nat, k ≤ 22 ∧ s.bitIndex = BitVec.ofNat 6 k ∧ t.bitIndex = BitVec.ofNat 6 (k + 1)))

/-- R21: `detected` is set only by the operation that completes a frame, together with `address` and `key`; cleared only by `CLRDET`,
`INIT` and hardware reset; and a frame that completes while it is 1 overwrites. -/
def Obligations.DetectedChangesOnlyAsItsRuleSays : Prop :=
  ∀ s : State, ∃ t : State, step s = .next t ∧
    (s.detected = false → t.detected = true →
      ∃ w rest v, s.events = .command w :: rest ∧ CompletesFrame s.W s.toBlock (decode s.W w) v) ∧
    (∀ w rest v, s.events = .command w :: rest → CompletesFrame s.W s.toBlock (decode s.W w) v →
      t.detected = true ∧ t.address = v.extractLsb' 4 20 ∧ t.key = v.extractLsb' 0 4) ∧
    (s.detected = true → t.detected = false →
      (∃ rest, s.events = .hardwareReset :: rest) ∨
        ∃ w rest, s.events = .command w :: rest ∧ (decode s.W w = .clrdet ∨ decode s.W w = .init)) ∧
    (∀ w rest, s.events = .command w :: rest → decode s.W w = .clrdet ∨ decode s.W w = .init → t.detected = false) ∧
    (∀ rest, s.events = .hardwareReset :: rest → t.detected = false)

/-- I5 of R29: `address` and `key` change only in an operation that completes a frame, in `INIT`, or at hardware reset. -/
def Obligations.AddressAndKeyChangeOnlyByCompletionOrReset : Prop :=
  ∀ s t : State, step s = .next t → t.address ≠ s.address ∨ t.key ≠ s.key →
    (∃ w rest v, s.events = .command w :: rest ∧ CompletesFrame s.W s.toBlock (decode s.W w) v) ∨
    (∃ w rest, s.events = .command w :: rest ∧ decode s.W w = .init) ∨
    (∃ rest, s.events = .hardwareReset :: rest)

/-- R81 (b), R11 (the spec's decision D9): `enabled` is set by `INIT` only and cleared by `SHUTDOWN` and hardware reset only. -/
def Obligations.EnabledChangesOnlyByLifecycle : Prop :=
  ∀ s t : State, step s = .next t → t.enabled ≠ s.enabled →
    (t.enabled = true ∧ ∃ w rest, s.events = .command w :: rest ∧ decode s.W w = .init) ∨
    (t.enabled = false ∧ ((∃ rest, s.events = .hardwareReset :: rest) ∨
      ∃ w rest, s.events = .command w :: rest ∧ decode s.W w = .shutdown))

/-- R67 (the spec's decision D12): only `READFRAME` puts a word out, the `FRAME` of the state it starts in; every other event puts out
nothing, so no error is ever visible there (R140). -/
def Obligations.OnlyReadframePutsOutAWord : Prop :=
  ∀ s : State, ∃ t : State, step s = .next t ∧
    (∀ w rest, s.events = .command w :: rest → decode s.W w = .readframe →
      t.results = s.results ++ [frameWord s.toBlock]) ∧
    ((∀ w rest, s.events = .command w :: rest → decode s.W w ≠ .readframe) → t.results = s.results)

/-- R51: the roles' discipline, for every operation. Only producer and host operations write DecoderState and the front end; `detected`
is set by a producer operation and cleared by `CLRDET` or `INIT`; the consumer never writes `address` or `key`. -/
def Obligations.EachElementHasItsWriters : Prop :=
  ∀ (i : Instr) (s : State), ∃ t : State, exec i s = .next t ∧
    (role i ≠ some .producer → role i ≠ some .host →
      t.enabled = s.enabled ∧ t.bitIndex = s.bitIndex ∧ t.accumulator = s.accumulator ∧
        t.lastEdgeTicks = s.lastEdgeTicks ∧ t.pendingLevel = s.pendingLevel ∧
        t.lastHighTicks = s.lastHighTicks ∧ t.lastLowTicks = s.lastLowTicks) ∧
    (s.detected = false → t.detected = true → role i = some .producer) ∧
    (s.detected = true → t.detected = false → i = .clrdet ∨ i = .init) ∧
    (role i = some .consumer → t.address = s.address ∧ t.key = s.key)

/- Lifecycle (40_lifecycle.md). -/

/-- R80 (the spec's decisions D6, D7, D9, D17): `INIT` writes all ten elements, from every state, and leaves the ports. -/
def Obligations.InitWritesAllTenElements : Prop :=
  ∀ s : State, exec .init s = .next
    { enabled := true, bitIndex := -1, accumulator := 0, lastEdgeTicks := 0, pendingLevel := .high,
      lastHighTicks := 0, lastLowTicks := 0, address := 0, key := 0, detected := false,
      W := s.W, events := s.events, results := s.results }

/-- R82 (the spec's decisions D9, D17, D21): `SHUTDOWN` clears DecoderState and the front end and keeps DecodedFrame. -/
def Obligations.ShutdownKeepsTheDecodedFrame : Prop :=
  ∀ s : State, exec .shutdown s = .next
    { enabled := false, bitIndex := -1, accumulator := 0, lastEdgeTicks := 0, pendingLevel := .high,
      lastHighTicks := 0, lastLowTicks := 0, address := s.address, key := s.key, detected := s.detected,
      W := s.W, events := s.events, results := s.results }

/-- R83 (e), R81 (a): whatever operation comes before it, `INIT` gives the state that `INIT` alone gives, but for the words put out. -/
def Obligations.InitForgetsTheOperationBefore : Prop :=
  ∀ (i : Instr) (s : State), ∃ t u v : State, exec i s = .next t ∧ exec .init t = .next u ∧ exec .init s = .next v ∧
    u.toBlock = v.toBlock ∧ u.W = v.W ∧ u.events = v.events

/-- R91, R121 (the spec's decision D9): while `enabled = 0` every producer operation, with any operand, changes no state. -/
def Obligations.DisabledBlockIgnoresProducers : Prop :=
  ∀ (i : Instr) (s : State), role i = some .producer → s.enabled = false → exec i s = .next s

/-- 70_reset_and_hazards.md R163 (the spec's decision D9): after hardware reset and until the first `INIT` no event of any kind changes the
block, and every word that `READFRAME` puts out is zero. -/
def Obligations.BlockIsInertBeforeInit : Prop :=
  ∀ (k : Nat) (s t : State), s.toBlock = Block.reset →
    (∀ w : Nat, Event.command w ∈ s.events → decode s.W w ≠ .init) →
    Sys2Proof.core.run k s = .next t →
    t.toBlock = Block.reset ∧ ∃ n : Nat, t.results = s.results ++ List.replicate n 0

/- The pulse pair (41_pulse_pair.md). -/

/-- R92: a pair is valid exactly strictly between the two bounds, whatever its halves. An invalid pair is not interpreted at all: it
returns the machine to SEEKING_PREAMBLE in either FSM state, all invalid pairs alike, and leaves DecodedFrame; a valid pair is
interpreted. -/
def Obligations.ValidationBoundsAreExclusive : Prop :=
  ∀ (s : State) (h l : Nat), s.enabled = true → ∃ t : State, exec (.pair h l) s = .next t ∧
    (¬(Config.MIN_PULSE_TICKS < h + l ∧ h + l < Config.MAX_PULSE_TICKS) →
      t.bitIndex = -1 ∧ t.address = s.address ∧ t.key = s.key ∧ t.detected = s.detected ∧
      ∀ h' l' : Nat,
        ¬(Config.MIN_PULSE_TICKS < h' + l' ∧ h' + l' < Config.MAX_PULSE_TICKS) →
          exec (.pair h' l') s = .next t) ∧
    (Config.MIN_PULSE_TICKS < h + l ∧ h + l < Config.MAX_PULSE_TICKS →
      (s.bitIndex = -1 →
        (t.bitIndex = 0 ↔ Config.PRE_MIN_MULT * h ≤ l ∧ l ≤ Config.PRE_MAX_MULT * h)) ∧
      (∀ k : Nat, k ≤ 22 → s.bitIndex = BitVec.ofNat 6 k → t.bitIndex = BitVec.ofNat 6 (k + 1)) ∧
      (s.bitIndex = 23 → t.detected = true))

/-- E1 and E3 (60_exceptions.md R136, R138) with the response of R93 (clearing the accumulator: the spec's decision D6): an out-of-range
pair, whether `PAIR` submits it or an `EDGER` in sequence, writes `bitIndex` and `accumulator`, leaves `enabled` and DecodedFrame, and
records nothing. -/
def Obligations.OutOfRangePairAborts : Prop :=
  ∀ (i : Instr) (s : State) (h l : Nat), s.enabled = true → submittedPair s.W s.toBlock i = some (h, l) →
    h + l ≤ Config.MIN_PULSE_TICKS ∨ Config.MAX_PULSE_TICKS ≤ h + l →
    ∃ t : State, exec i s = .next t ∧ t.bitIndex = -1 ∧ t.accumulator = 0 ∧ t.enabled = s.enabled ∧
      t.address = s.address ∧ t.key = s.key ∧ t.detected = s.detected ∧ t.events = s.events ∧ t.results = s.results

/-- R94: the preamble test, both bounds inclusive, on valid pairs while seeking: on a match to COLLECTING_BITS with a clear accumulator;
never with `h = 0`; never evaluated in COLLECTING_BITS, where a pair of preamble shape is a data bit 0. -/
def Obligations.PreambleTestBoundsAreInclusive : Prop :=
  ∀ (s : State) (h l : Nat), s.enabled = true →
    Config.MIN_PULSE_TICKS < h + l → h + l < Config.MAX_PULSE_TICKS →
    (s.bitIndex = -1 → Config.PRE_MIN_MULT * h ≤ l → l ≤ Config.PRE_MAX_MULT * h →
      exec (.pair h l) s = .next { s with bitIndex := 0, accumulator := 0 }) ∧
    (s.bitIndex = -1 → ¬(Config.PRE_MIN_MULT * h ≤ l ∧ l ≤ Config.PRE_MAX_MULT * h) →
      exec (.pair h l) s = .next s) ∧
    (s.bitIndex = -1 → h = 0 → exec (.pair h l) s = .next s) ∧
    (∀ k : Nat, k ≤ 23 → s.bitIndex = BitVec.ofNat 6 k →
      Config.PRE_MIN_MULT * h ≤ l → l ≤ Config.PRE_MAX_MULT * h →
      bitValue h l = false ∧ ∃ t : State, exec (.pair h l) s = .next t ∧
        (k ≤ 22 → t.bitIndex = BitVec.ofNat 6 (k + 1)) ∧ (k = 23 → t.detected = true ∧ t.bitIndex = -1))

/-- R95: a valid pair that fails the preamble test while seeking changes no state. -/
def Obligations.PreambleMismatchChangesNothing : Prop :=
  ∀ (s : State) (h l : Nat), s.enabled = true → s.bitIndex = -1 →
    Config.MIN_PULSE_TICKS < h + l → h + l < Config.MAX_PULSE_TICKS →
    l < Config.PRE_MIN_MULT * h ∨ Config.PRE_MAX_MULT * h < l →
    exec (.pair h l) s = .next s

/-- R97 and R98 over the rational numbers: the bit of a valid pair is 1 exactly when `highTicks >= 1.5 * lowTicks`. (That the first 23
bits are seen in the accumulator at `23 - k` and the last one in `key[0]` is the spec's decision D5; that 1.5 is exact, D3.) -/
def Obligations.BitIsOneExactlyFromThreeHalves : Prop :=
  ∀ (s : State) (h l k : Nat), s.enabled = true → k ≤ 23 → s.bitIndex = BitVec.ofNat 6 k →
    Config.MIN_PULSE_TICKS < h + l → h + l < Config.MAX_PULSE_TICKS →
    ∃ t : State, exec (.pair h l) s = .next t ∧
      (k ≤ 22 → (t.accumulator.getLsbD (23 - k) = true ↔ (3 / 2 : ℚ) * (l : ℚ) ≤ (h : ℚ))) ∧
      (k = 23 → (t.key.getLsbD 0 = true ↔ (3 / 2 : ℚ) * (l : ℚ) ≤ (h : ℚ)))

/-- R99 (the spec's decision D5): in slot k <= 22 the new bit goes to `accumulator[23 - k]`, every other accumulator bit and every other
element stays, the next slot is k+1; and where the unfilled slots are zero (I3) the write is the OR of the bit. -/
def Obligations.BitGoesToItsPlace : Prop :=
  ∀ (s : State) (h l k : Nat), s.enabled = true → k ≤ 22 → s.bitIndex = BitVec.ofNat 6 k →
    Config.MIN_PULSE_TICKS < h + l → h + l < Config.MAX_PULSE_TICKS →
    ∃ acc : BitVec 24,
      exec (.pair h l) s = .next { s with bitIndex := BitVec.ofNat 6 (k + 1), accumulator := acc } ∧
      (∀ n : Nat, acc.getLsbD n =
        if n = 23 - k then decide (Config.BIT_NUM * l ≤ Config.BIT_DEN * h) else s.accumulator.getLsbD n) ∧
      (s.UnfilledSlotsClear →
        acc = s.accumulator ||| (if Config.BIT_NUM * l ≤ Config.BIT_DEN * h then 1#24 else 0#24) <<< (23 - k))

/-- R100: the valid pair of slot 23 completes the frame: the accumulator with bit 0 replaced by the new bit is split into `address` and
`key`, `detected` is set, the machine is back in SEEKING_PREAMBLE; every accumulator value is a legal frame. -/
def Obligations.LastBitCompletesTheFrame : Prop :=
  ∀ (s : State) (h l : Nat), s.enabled = true → s.bitIndex = 23 →
    Config.MIN_PULSE_TICKS < h + l → h + l < Config.MAX_PULSE_TICKS →
    ∃ v : BitVec 24,
      v.getLsbD 0 = decide (Config.BIT_NUM * l ≤ Config.BIT_DEN * h) ∧
      (∀ n : Nat, 1 ≤ n → v.getLsbD n = s.accumulator.getLsbD n) ∧
      exec (.pair h l) s = .next
        { s with
          address := v.extractLsb' 4 20, key := v.extractLsb' 0 4, detected := true,
          bitIndex := -1, accumulator := 0 }

/-- R101: the frame write is atomic and unconditional: the state after the completing operation is the same whatever DecodedFrame held
before, read or unread. -/
def Obligations.FrameWriteIsUnconditional : Prop :=
  ∀ (s : State) (h l : Nat) (a : BitVec 20) (k : BitVec 4) (d : Bool), s.enabled = true → s.bitIndex = 23 →
    Config.MIN_PULSE_TICKS < h + l → h + l < Config.MAX_PULSE_TICKS →
    ∃ t : State, exec (.pair h l) s = .next t ∧ t.detected = true ∧
      t.address ++ t.key = s.accumulator.extractLsb' 1 23 ++
        BitVec.ofBool (decide (Config.BIT_NUM * l ≤ Config.BIT_DEN * h)) ∧
      exec (.pair h l) { s with address := a, key := k, detected := d } = .next t

/-- R103 (f) and the column `PAIR` of 10_state.md R32: `PAIR` never writes `enabled`, the front end or the ports, never clears `detected`,
and what it does to the rest does not depend on the front end. -/
def Obligations.PairIsIndependentOfTheFrontEnd : Prop :=
  ∀ (s : State) (h l last hi lo : Nat) (lv : Level), ∃ t : State, exec (.pair h l) s = .next t ∧
    t.enabled = s.enabled ∧ t.lastEdgeTicks = s.lastEdgeTicks ∧ t.pendingLevel = s.pendingLevel ∧
    t.lastHighTicks = s.lastHighTicks ∧ t.lastLowTicks = s.lastLowTicks ∧ t.events = s.events ∧
    t.results = s.results ∧ (s.detected = true → t.detected = true) ∧
    exec (.pair h l)
      { s with lastEdgeTicks := last, pendingLevel := lv, lastHighTicks := hi, lastLowTicks := lo } =
    .next { t with lastEdgeTicks := last, pendingLevel := lv, lastHighTicks := hi, lastLowTicks := lo }

/-- R103 (a), (b): the pairs that start a frame have `11 <= h <= 326`, and with `h = 320` exactly `8000 <= l <= 8179` start one
(so not the document's example 10000: 90_conflicts.md C2). -/
def Obligations.PreambleWindow : Prop :=
  ∀ (s : State) (h l : Nat), s.enabled = true → s.bitIndex = -1 → ∃ t : State, exec (.pair h l) s = .next t ∧
    (t.bitIndex ≠ -1 → 11 ≤ h ∧ h ≤ 326) ∧
    (h = 320 → (t.bitIndex = 0 ↔ 8000 ≤ l ∧ l ≤ 8179))

/-- R102 ("A frame therefore takes exactly 25" pairs), the lower bound: from SEEKING_PREAMBLE with `detected = 0`, no 24 events of any
kind set `detected`. (That 25 can: `SendFrameDecodesExactlyInItsRange`.) -/
def Obligations.NoTwentyFourEventsSetDetected : Prop :=
  ∀ (k : Nat) (s t : State), s.bitIndex = -1 → s.detected = false → k ≤ 24 →
    Sys2Proof.core.run k s = .next t → t.detected = false

/-- R70: `SENDFRAME T, addr, key` from an enabled seeking state with `detected = 0` yields `detected = 1`, exactly when
`113 <= T <= 265`, and then with the given `addr` and `key` (for every `T` whose preamble fits the operand; bit order by the spec's
decision D5). -/
def Obligations.SendFrameDecodesExactlyInItsRange : Prop :=
  ∀ (s : State) (T : Nat) (addr : BitVec 20) (key : BitVec 4), s.enabled = true → s.bitIndex = -1 →
    s.detected = false → 31 * T < 2 ^ s.W →
    ∃ t : State, Sys2Proof.core.run 25 (present (commandEvents s.W (pseudoSendFrame T addr key)) s) = .next t ∧
      t.events = s.events ∧ (t.detected = true ↔ 113 ≤ T ∧ T ≤ 265) ∧
      (113 ≤ T → T ≤ 265 → t.address = addr ∧ t.key = key ∧ t.bitIndex = -1)

/-- R103 (g), R145: on every block of legal width, from any enabled state, in any slot, one invalid pair and then a frame decodes that
frame, with no residual corruption from the aborted attempt (bit order by the spec's decision D5). -/
def Obligations.FrameAfterAnAbortDecodes : Prop :=
  ∀ (s : State) (h l T : Nat) (addr : BitVec 20) (key : BitVec 4), Config.W_MIN ≤ s.W → s.enabled = true →
    h < 2 ^ s.W → l < 2 ^ s.W → h + l ≤ Config.MIN_PULSE_TICKS ∨ Config.MAX_PULSE_TICKS ≤ h + l →
    113 ≤ T → T ≤ 265 →
    ∃ t : State,
      Sys2Proof.core.run 26 (present (commandEvents s.W (.pair h l :: pseudoSendFrame T addr key)) s) = .next t ∧
      t.events = s.events ∧ t.results = s.results ∧ t.address = addr ∧ t.key = key ∧ t.detected = true ∧
      t.bitIndex = -1

/-- 60_exceptions.md R152: no state is stuck: in every state every operation yields a next state (the reserved one too, by the model's
choice, log 6), and on every block of legal width `INIT` and a valid `SENDFRAME` produce a detected frame from every state (bit order by
the spec's decision D5). -/
def Obligations.EveryStateCanDecodeAFrame : Prop :=
  ∀ s : State, (∀ i : Instr, ∃ t : State, exec i s = .next t) ∧
    (Config.W_MIN ≤ s.W → ∀ (T : Nat) (addr : BitVec 20) (key : BitVec 4), 113 ≤ T → T ≤ 265 →
      ∃ t : State,
        Sys2Proof.core.run 26 (present (commandEvents s.W (.init :: pseudoSendFrame T addr key)) s) = .next t ∧
        t.detected = true ∧ t.address = addr ∧ t.key = key)

/-- 70_reset_and_hazards.md R170 (the spec's decision D23): on every block of legal width a duration that the operand cannot carry, passed
saturated, is an operand and always aborts, in either half. -/
def Obligations.SaturatedDurationAborts : Prop :=
  ∀ (s : State) (d x : Nat), Config.W_MIN ≤ s.W → s.enabled = true → 2 ^ s.W ≤ d →
    saturatedTicks s.W d < 2 ^ s.W ∧
    exec (.pair (saturatedTicks s.W d) x) s = .next { s with bitIndex := -1, accumulator := 0 } ∧
    exec (.pair x (saturatedTicks s.W d)) s = .next { s with bitIndex := -1, accumulator := 0 }

/-- The accumulator's content while seeking cannot be observed (the spec's decision D6): two states that differ only in it, both seeking,
put out the same words and hold the same of everything else after any number of steps. -/
def Obligations.SeekingAccumulatorIsUnobservable : Prop :=
  ∀ (k : Nat) (s : State) (acc : BitVec 24), s.bitIndex = -1 →
    ∃ t u : State, Sys2Proof.core.run k s = .next t ∧
      Sys2Proof.core.run k ({ s with accumulator := acc } : State) = .next u ∧
      { u with accumulator := t.accumulator } = t ∧ (t.bitIndex ≠ -1 → u = t)

/- The consumer (42_consumer.md). -/

/-- 20_memory.md R49, R51: the consumer cannot disturb decoding. Whatever stream of events is presented, taking the consumer's operations
out of it leaves every element the same but `detected`. -/
def Obligations.ConsumerCannotDisturbDecoding : Prop :=
  ∀ (es : List Event) (s : State), ∃ t u : State,
    Sys2Proof.core.run es.length (present es s) = .next t ∧
    Sys2Proof.core.run (es.filter (notOfConsumer s.W)).length (present (es.filter (notOfConsumer s.W)) s) = .next u ∧
    { t.toBlock with detected := u.detected } = u.toBlock

/-- R110, R23 (layout by the spec's decision D8): `READFRAME` puts out one word with `key` in bits 3..0, `address` in 23..4, `detected` in
24 and zeros above, and changes no state, enabled or not. -/
def Obligations.ReadframePutsOutTheFrame : Prop :=
  ∀ s : State, ∃ f : ResultWord, exec .readframe s = .next { s with results := s.results ++ [f] } ∧
    f.extractLsb' 0 4 = s.key ∧ f.extractLsb' 4 20 = s.address ∧ f.getLsbD 24 = s.detected ∧ f.extractLsb' 25 7 = 0

/-- R47: `READFRAME` has no side effect: two in a row put out the same word and leave the block as it was, `detected` included; clearing is
the separate operation `CLRDET`. -/
def Obligations.ReadingHasNoSideEffect : Prop :=
  ∀ s : State, ∃ t u v : State, ∃ f : ResultWord,
    exec .readframe s = .next t ∧ exec .readframe t = .next u ∧ t.toBlock = s.toBlock ∧ u.toBlock = s.toBlock ∧
      t.results = s.results ++ [f] ∧ u.results = s.results ++ [f, f] ∧
      exec .clrdet s = .next v ∧ v.detected = false

/-- R112 (that `address` and `key` stay: the spec's decision D7): `CLRDET` clears the flag and nothing else, enabled or not. -/
def Obligations.ClrdetClearsOnlyTheFlag : Prop :=
  ∀ s : State, exec .clrdet s = .next { s with detected := false }

/-- R23: after the completing `PAIR`, `READFRAME` puts out the completed 24-bit value under the flag at bit 24 (layout by the spec's
decision D8). -/
def Obligations.FrameWordIsTheCompletedValue : Prop :=
  ∀ (s : State) (h l : Nat), s.enabled = true → s.bitIndex = 23 →
    Config.MIN_PULSE_TICKS < h + l → h + l < Config.MAX_PULSE_TICKS →
    ∃ t u : State, ∃ f : ResultWord, exec (.pair h l) s = .next t ∧ exec .readframe t = .next u ∧
      u.results = s.results ++ [f] ∧
      f.toNat = 2 ^ 24 + 2 * (s.accumulator.toNat / 2) +
        (if Config.BIT_NUM * l ≤ Config.BIT_DEN * h then 1 else 0)

/-- 70_reset_and_hazards.md R169 and R143: the read-then-clear race. A frame that completes between the consumer's `READFRAME` and its
`CLRDET` ends unflagged, although it is in the registers; in the opposite order it ends flagged. -/
def Obligations.ReadThenClearRaceLosesTheFlag : Prop :=
  ∀ (s : State) (h l : Nat), s.enabled = true → s.bitIndex = 23 →
    Config.MIN_PULSE_TICKS < h + l → h + l < Config.MAX_PULSE_TICKS →
    ∃ r t u c v : State,
      exec .readframe s = .next r ∧ exec (.pair h l) r = .next t ∧ exec .clrdet t = .next u ∧
      exec .clrdet r = .next c ∧ exec (.pair h l) c = .next v ∧
      u.detected = false ∧ v.detected = true ∧ u.address = v.address ∧ u.key = v.key ∧
      u.address ++ u.key = s.accumulator.extractLsb' 1 23 ++
        BitVec.ofBool (decide (Config.BIT_NUM * l ≤ Config.BIT_DEN * h))

/- The edge front end (43_edge_front_end.md: every rule there is the spec's own decision, D16 to D18). -/

/-- R123, R122: a falling edge in sequence stores the HIGH duration, counted modulo `2^W`, and changes nothing else but the front end. -/
def Obligations.FallingEdgeMeasuresTheHighLevel : Prop :=
  ∀ (s : State) (ticks : Nat), s.enabled = true → s.pendingLevel = .high →
    ∃ e : Nat, (e : ℤ) = ((ticks : ℤ) - (s.lastEdgeTicks : ℤ)) % 2 ^ s.W ∧
      exec (.edgef ticks) s = .next
        { s with lastEdgeTicks := ticks, lastHighTicks := e, pendingLevel := .low }

/-- R125, R122: a rising edge in sequence stores the LOW duration, counted modulo `2^W`, and does to the decoder exactly what `PAIR` with
the stored HIGH duration and that LOW duration does. -/
def Obligations.RisingEdgeCompletesThePair : Prop :=
  ∀ (s : State) (ticks : Nat), s.enabled = true → s.pendingLevel = .low →
    ∃ (e : Nat) (t : State), (e : ℤ) = ((ticks : ℤ) - (s.lastEdgeTicks : ℤ)) % 2 ^ s.W ∧
      exec (.pair s.lastHighTicks e) s = .next t ∧
      exec (.edger ticks) s = .next
        { t with lastEdgeTicks := ticks, lastLowTicks := e, pendingLevel := .high }

/-- R124: two edges of one kind in a row abort, run no pair, and still update the duration, the last edge and the pending level. -/
def Obligations.EdgeOutOfSequenceAborts : Prop :=
  ∀ (s : State) (ticks : Nat), s.enabled = true →
    ∃ e : Nat, (e : ℤ) = ((ticks : ℤ) - (s.lastEdgeTicks : ℤ)) % 2 ^ s.W ∧
      (s.pendingLevel = .low → exec (.edgef ticks) s = .next
        { s with
          bitIndex := -1, accumulator := 0, lastEdgeTicks := ticks, lastHighTicks := e, pendingLevel := .low }) ∧
      (s.pendingLevel = .high → exec (.edger ticks) s = .next
        { s with
          bitIndex := -1, accumulator := 0, lastEdgeTicks := ticks, lastLowTicks := e, pendingLevel := .high })

/-- R126: `EDGEF t1; EDGER t2` from an enabled state with `pendingLevel = HIGH` has the effect of one `PAIR` of the two measured durations on
the decoder, and ends with `pendingLevel = HIGH`. -/
def Obligations.EdgePairEqualsPair : Prop :=
  ∀ (s : State) (t1 t2 : Nat), s.enabled = true → s.pendingLevel = .high →
    ∃ (h l : Nat) (a b c : State), (h : ℤ) = ((t1 : ℤ) - (s.lastEdgeTicks : ℤ)) % 2 ^ s.W ∧
      (l : ℤ) = ((t2 : ℤ) - (t1 : ℤ)) % 2 ^ s.W ∧
      exec (.edgef t1) s = .next a ∧ exec (.edger t2) a = .next b ∧ exec (.pair h l) s = .next c ∧
      SameDecoder b.toBlock c.toBlock ∧ b.pendingLevel = .high ∧ b.events = c.events ∧ b.results = c.results

/-- R126 for whole streams: the front end simulates the `PAIR` boundary. Any list of pairs of operands presented as edges leaves the
decoder as the same list presented as `PAIR` operations, at every tick width. -/
def Obligations.EdgeStreamSimulatesPairStream : Prop :=
  ∀ (ps : List (Nat × Nat)) (s : State), s.enabled = true → s.pendingLevel = .high →
    (∀ p ∈ ps, p.1 < 2 ^ s.W ∧ p.2 < 2 ^ s.W) →
    ∃ t u : State,
      Sys2Proof.core.run (2 * ps.length)
        (present (commandEvents s.W (pairsAsEdges s.W s.lastEdgeTicks ps)) s) = .next t ∧
      Sys2Proof.core.run ps.length (present (commandEvents s.W (pairsAsPair ps)) s) = .next u ∧
      SameDecoder t.toBlock u.toBlock ∧ t.pendingLevel = .high ∧ t.events = u.events ∧ t.results = u.results
end

