-- ==== Sys2Proof/Laws/Decode.lean ====
section
/-! SUPPORT. The fields of a word and of an encoded operation, for every tick width. -/

namespace Sys2Proof

/-- The operand `A` of a well-formed operation fits its field. -/
theorem operandA_lt {W : Nat} {i : Instr} (h : i.wellFormed W = true) : i.operandA < 2 ^ W := by
  cases i <;> simp_all [Instr.wellFormed, operandInRange, Instr.operandA]

/-- The operand `B` of a well-formed operation fits its field. -/
theorem operandB_lt {W : Nat} {i : Instr} (h : i.wellFormed W = true) : i.operandB < 2 ^ W := by
  cases i <;> simp_all [Instr.wellFormed, operandInRange, Instr.operandB]

/-- The field `A` has `W` bits. -/
theorem fieldA_lt (W w : Nat) : CommandWord.fieldA W w < 2 ^ W := Nat.mod_lt _ (Nat.two_pow_pos W)

/-- The field `B` has `W` bits. -/
theorem fieldB_lt (W w : Nat) : CommandWord.fieldB W w < 2 ^ W := Nat.mod_lt _ (Nat.two_pow_pos W)

/-- `3 + 2W` bits are three fields. -/
theorem two_pow_word (W : Nat) : 2 ^ (3 + 2 * W) = 8 * (2 ^ W * 2 ^ W) := by ring

/-- The bits below `op` are one field `A` and one field `B`. -/
theorem two_pow_operands (W : Nat) : 2 ^ (2 * W) = 2 ^ W * 2 ^ W := by ring

/-- A word that has no bit beyond its `3 + 2W` is its three fields. -/
theorem word_eq_fields {W w : Nat} (h : fitsCommandWord W w = true) :
    w = (CommandWord.op W w).toNat * 2 ^ (2 * W) + CommandWord.fieldA W w * 2 ^ W + CommandWord.fieldB W w := by
  have hw : w < 8 * (2 ^ W * 2 ^ W) := by rw [← two_pow_word]; exact of_decide_eq_true h
  have hq : w / 2 ^ W / 2 ^ W < 8 := by
    rw [Nat.div_div_eq_div_mul]; exact Nat.div_lt_of_lt_mul (by rw [Nat.mul_comm]; exact hw)
  have h1 := Nat.div_add_mod w (2 ^ W)
  have h2 := Nat.div_add_mod (w / 2 ^ W) (2 ^ W)
  rw [CommandWord.op, BitVec.toNat_ofNat, two_pow_operands, ← Nat.div_div_eq_div_mul, Nat.mod_eq_of_lt hq,
    CommandWord.fieldA, CommandWord.fieldB]
  calc w = (2 ^ W * (w / 2 ^ W / 2 ^ W) + w / 2 ^ W % 2 ^ W) * 2 ^ W + w % 2 ^ W := by
        rw [h2, Nat.mul_comm]; exact h1.symm
    _ = _ := by ring

/-- Reading the fields of a word that was put together from them. -/
theorem fields_of_word {W o a b : Nat} (ha : a < 2 ^ W) (hb : b < 2 ^ W) :
    (o * 2 ^ (2 * W) + a * 2 ^ W + b) / 2 ^ (2 * W) = o ∧
      CommandWord.fieldA W (o * 2 ^ (2 * W) + a * 2 ^ W + b) = a ∧
      CommandWord.fieldB W (o * 2 ^ (2 * W) + a * 2 ^ W + b) = b := by
  have hp : 0 < 2 ^ W := Nat.two_pow_pos W
  have hw : o * 2 ^ (2 * W) + a * 2 ^ W + b = b + 2 ^ W * (a + 2 ^ W * o) := by rw [two_pow_operands]; ring
  have hdiv : (b + 2 ^ W * (a + 2 ^ W * o)) / 2 ^ W = a + 2 ^ W * o := by
    rw [Nat.add_mul_div_left _ _ hp, Nat.div_eq_of_lt hb, Nat.zero_add]
  rw [hw]
  refine ⟨?_, ?_, ?_⟩
  · rw [two_pow_operands, ← Nat.div_div_eq_div_mul, hdiv, Nat.add_mul_div_left _ _ hp, Nat.div_eq_of_lt ha, Nat.zero_add]
  · rw [CommandWord.fieldA, hdiv, Nat.add_mul_mod_self_left, Nat.mod_eq_of_lt ha]
  · rw [CommandWord.fieldB, Nat.add_mul_mod_self_left, Nat.mod_eq_of_lt hb]

theorem encode_op {W : Nat} {i : Instr} (h : i.wellFormed W = true) :
    CommandWord.op W (encode W i) = i.opcode := by
  rw [CommandWord.op, encode, (fields_of_word (operandA_lt h) (operandB_lt h)).1]
  simp

theorem encode_fieldA {W : Nat} {i : Instr} (h : i.wellFormed W = true) :
    CommandWord.fieldA W (encode W i) = i.operandA :=
  (fields_of_word (operandA_lt h) (operandB_lt h)).2.1

theorem encode_fieldB {W : Nat} {i : Instr} (h : i.wellFormed W = true) :
    CommandWord.fieldB W (encode W i) = i.operandB :=
  (fields_of_word (operandA_lt h) (operandB_lt h)).2.2

end Sys2Proof
end

