-- ==== Sys2Proof/Laws/State.lean ====
section
/-! SUPPORT. One lemma per field per update of the state, so that no later proof unfolds a record update. -/

namespace Sys2Proof.Machine

@[simp] theorem abortToSeeking_enabled (b : Block) : (abortToSeeking b).enabled = b.enabled := rfl
@[simp] theorem abortToSeeking_bitIndex (b : Block) : (abortToSeeking b).bitIndex = seekingIndex := rfl
@[simp] theorem abortToSeeking_accumulator (b : Block) : (abortToSeeking b).accumulator = 0 := rfl
@[simp] theorem abortToSeeking_lastEdgeTicks (b : Block) : (abortToSeeking b).lastEdgeTicks = b.lastEdgeTicks := rfl
@[simp] theorem abortToSeeking_pendingLevel (b : Block) : (abortToSeeking b).pendingLevel = b.pendingLevel := rfl
@[simp] theorem abortToSeeking_lastHighTicks (b : Block) : (abortToSeeking b).lastHighTicks = b.lastHighTicks := rfl
@[simp] theorem abortToSeeking_lastLowTicks (b : Block) : (abortToSeeking b).lastLowTicks = b.lastLowTicks := rfl
@[simp] theorem abortToSeeking_address (b : Block) : (abortToSeeking b).address = b.address := rfl
@[simp] theorem abortToSeeking_key (b : Block) : (abortToSeeking b).key = b.key := rfl
@[simp] theorem abortToSeeking_detected (b : Block) : (abortToSeeking b).detected = b.detected := rfl

@[simp] theorem startCollecting_enabled (b : Block) : (startCollecting b).enabled = b.enabled := rfl
@[simp] theorem startCollecting_bitIndex (b : Block) : (startCollecting b).bitIndex = 0 := rfl
@[simp] theorem startCollecting_accumulator (b : Block) : (startCollecting b).accumulator = 0 := rfl
@[simp] theorem startCollecting_lastEdgeTicks (b : Block) : (startCollecting b).lastEdgeTicks = b.lastEdgeTicks := rfl
@[simp] theorem startCollecting_pendingLevel (b : Block) : (startCollecting b).pendingLevel = b.pendingLevel := rfl
@[simp] theorem startCollecting_lastHighTicks (b : Block) : (startCollecting b).lastHighTicks = b.lastHighTicks := rfl
@[simp] theorem startCollecting_lastLowTicks (b : Block) : (startCollecting b).lastLowTicks = b.lastLowTicks := rfl
@[simp] theorem startCollecting_address (b : Block) : (startCollecting b).address = b.address := rfl
@[simp] theorem startCollecting_key (b : Block) : (startCollecting b).key = b.key := rfl
@[simp] theorem startCollecting_detected (b : Block) : (startCollecting b).detected = b.detected := rfl

@[simp] theorem storeBit_enabled (v : Bool) (b : Block) : (storeBit v b).enabled = b.enabled := rfl
@[simp] theorem storeBit_bitIndex (v : Bool) (b : Block) : (storeBit v b).bitIndex = b.bitIndex + 1 := rfl
@[simp] theorem storeBit_accumulator (v : Bool) (b : Block) : (storeBit v b).accumulator = placeBit b.accumulator b.bitIndex v := rfl
@[simp] theorem storeBit_lastEdgeTicks (v : Bool) (b : Block) : (storeBit v b).lastEdgeTicks = b.lastEdgeTicks := rfl
@[simp] theorem storeBit_pendingLevel (v : Bool) (b : Block) : (storeBit v b).pendingLevel = b.pendingLevel := rfl
@[simp] theorem storeBit_lastHighTicks (v : Bool) (b : Block) : (storeBit v b).lastHighTicks = b.lastHighTicks := rfl
@[simp] theorem storeBit_lastLowTicks (v : Bool) (b : Block) : (storeBit v b).lastLowTicks = b.lastLowTicks := rfl
@[simp] theorem storeBit_address (v : Bool) (b : Block) : (storeBit v b).address = b.address := rfl
@[simp] theorem storeBit_key (v : Bool) (b : Block) : (storeBit v b).key = b.key := rfl
@[simp] theorem storeBit_detected (v : Bool) (b : Block) : (storeBit v b).detected = b.detected := rfl

@[simp] theorem completeFrame_enabled (v : BitVec Config.N_BITS) (b : Block) : (completeFrame v b).enabled = b.enabled := rfl
@[simp] theorem completeFrame_bitIndex (v : BitVec Config.N_BITS) (b : Block) : (completeFrame v b).bitIndex = seekingIndex := rfl
@[simp] theorem completeFrame_accumulator (v : BitVec Config.N_BITS) (b : Block) : (completeFrame v b).accumulator = 0 := rfl
@[simp] theorem completeFrame_lastEdgeTicks (v : BitVec Config.N_BITS) (b : Block) : (completeFrame v b).lastEdgeTicks = b.lastEdgeTicks := rfl
@[simp] theorem completeFrame_pendingLevel (v : BitVec Config.N_BITS) (b : Block) : (completeFrame v b).pendingLevel = b.pendingLevel := rfl
@[simp] theorem completeFrame_lastHighTicks (v : BitVec Config.N_BITS) (b : Block) : (completeFrame v b).lastHighTicks = b.lastHighTicks := rfl
@[simp] theorem completeFrame_lastLowTicks (v : BitVec Config.N_BITS) (b : Block) : (completeFrame v b).lastLowTicks = b.lastLowTicks := rfl
@[simp] theorem completeFrame_address (v : BitVec Config.N_BITS) (b : Block) : (completeFrame v b).address = v.extractLsb' Config.KEY_BITS Config.ADDR_BITS := rfl
@[simp] theorem completeFrame_key (v : BitVec Config.N_BITS) (b : Block) : (completeFrame v b).key = v.extractLsb' 0 Config.KEY_BITS := rfl
@[simp] theorem completeFrame_detected (v : BitVec Config.N_BITS) (b : Block) : (completeFrame v b).detected = true := rfl

@[simp] theorem measureHigh_enabled (W t : Nat) (b : Block) : (measureHigh W t b).enabled = b.enabled := rfl
@[simp] theorem measureHigh_bitIndex (W t : Nat) (b : Block) : (measureHigh W t b).bitIndex = b.bitIndex := rfl
@[simp] theorem measureHigh_accumulator (W t : Nat) (b : Block) : (measureHigh W t b).accumulator = b.accumulator := rfl
@[simp] theorem measureHigh_lastEdgeTicks (W t : Nat) (b : Block) : (measureHigh W t b).lastEdgeTicks = t := rfl
@[simp] theorem measureHigh_pendingLevel (W t : Nat) (b : Block) : (measureHigh W t b).pendingLevel = b.pendingLevel := rfl
@[simp] theorem measureHigh_lastHighTicks (W t : Nat) (b : Block) : (measureHigh W t b).lastHighTicks = elapsed W t b.lastEdgeTicks := rfl
@[simp] theorem measureHigh_lastLowTicks (W t : Nat) (b : Block) : (measureHigh W t b).lastLowTicks = b.lastLowTicks := rfl
@[simp] theorem measureHigh_address (W t : Nat) (b : Block) : (measureHigh W t b).address = b.address := rfl
@[simp] theorem measureHigh_key (W t : Nat) (b : Block) : (measureHigh W t b).key = b.key := rfl
@[simp] theorem measureHigh_detected (W t : Nat) (b : Block) : (measureHigh W t b).detected = b.detected := rfl

@[simp] theorem measureLow_enabled (W t : Nat) (b : Block) : (measureLow W t b).enabled = b.enabled := rfl
@[simp] theorem measureLow_bitIndex (W t : Nat) (b : Block) : (measureLow W t b).bitIndex = b.bitIndex := rfl
@[simp] theorem measureLow_accumulator (W t : Nat) (b : Block) : (measureLow W t b).accumulator = b.accumulator := rfl
@[simp] theorem measureLow_lastEdgeTicks (W t : Nat) (b : Block) : (measureLow W t b).lastEdgeTicks = t := rfl
@[simp] theorem measureLow_pendingLevel (W t : Nat) (b : Block) : (measureLow W t b).pendingLevel = b.pendingLevel := rfl
@[simp] theorem measureLow_lastHighTicks (W t : Nat) (b : Block) : (measureLow W t b).lastHighTicks = b.lastHighTicks := rfl
@[simp] theorem measureLow_lastLowTicks (W t : Nat) (b : Block) : (measureLow W t b).lastLowTicks = elapsed W t b.lastEdgeTicks := rfl
@[simp] theorem measureLow_address (W t : Nat) (b : Block) : (measureLow W t b).address = b.address := rfl
@[simp] theorem measureLow_key (W t : Nat) (b : Block) : (measureLow W t b).key = b.key := rfl
@[simp] theorem measureLow_detected (W t : Nat) (b : Block) : (measureLow W t b).detected = b.detected := rfl

@[simp] theorem expectLevel_enabled (v : Level) (b : Block) : (expectLevel v b).enabled = b.enabled := rfl
@[simp] theorem expectLevel_bitIndex (v : Level) (b : Block) : (expectLevel v b).bitIndex = b.bitIndex := rfl
@[simp] theorem expectLevel_accumulator (v : Level) (b : Block) : (expectLevel v b).accumulator = b.accumulator := rfl
@[simp] theorem expectLevel_lastEdgeTicks (v : Level) (b : Block) : (expectLevel v b).lastEdgeTicks = b.lastEdgeTicks := rfl
@[simp] theorem expectLevel_pendingLevel (v : Level) (b : Block) : (expectLevel v b).pendingLevel = v := rfl
@[simp] theorem expectLevel_lastHighTicks (v : Level) (b : Block) : (expectLevel v b).lastHighTicks = b.lastHighTicks := rfl
@[simp] theorem expectLevel_lastLowTicks (v : Level) (b : Block) : (expectLevel v b).lastLowTicks = b.lastLowTicks := rfl
@[simp] theorem expectLevel_address (v : Level) (b : Block) : (expectLevel v b).address = b.address := rfl
@[simp] theorem expectLevel_key (v : Level) (b : Block) : (expectLevel v b).key = b.key := rfl
@[simp] theorem expectLevel_detected (v : Level) (b : Block) : (expectLevel v b).detected = b.detected := rfl

@[simp] theorem clearDecoder_enabled (b : Block) : (clearDecoder b).enabled = b.enabled := rfl
@[simp] theorem clearDecoder_bitIndex (b : Block) : (clearDecoder b).bitIndex = seekingIndex := rfl
@[simp] theorem clearDecoder_accumulator (b : Block) : (clearDecoder b).accumulator = 0 := rfl
@[simp] theorem clearDecoder_lastEdgeTicks (b : Block) : (clearDecoder b).lastEdgeTicks = 0 := rfl
@[simp] theorem clearDecoder_pendingLevel (b : Block) : (clearDecoder b).pendingLevel = .high := rfl
@[simp] theorem clearDecoder_lastHighTicks (b : Block) : (clearDecoder b).lastHighTicks = 0 := rfl
@[simp] theorem clearDecoder_lastLowTicks (b : Block) : (clearDecoder b).lastLowTicks = 0 := rfl
@[simp] theorem clearDecoder_address (b : Block) : (clearDecoder b).address = b.address := rfl
@[simp] theorem clearDecoder_key (b : Block) : (clearDecoder b).key = b.key := rfl
@[simp] theorem clearDecoder_detected (b : Block) : (clearDecoder b).detected = b.detected := rfl

@[simp] theorem clearFrame_enabled (b : Block) : (clearFrame b).enabled = b.enabled := rfl
@[simp] theorem clearFrame_bitIndex (b : Block) : (clearFrame b).bitIndex = b.bitIndex := rfl
@[simp] theorem clearFrame_accumulator (b : Block) : (clearFrame b).accumulator = b.accumulator := rfl
@[simp] theorem clearFrame_lastEdgeTicks (b : Block) : (clearFrame b).lastEdgeTicks = b.lastEdgeTicks := rfl
@[simp] theorem clearFrame_pendingLevel (b : Block) : (clearFrame b).pendingLevel = b.pendingLevel := rfl
@[simp] theorem clearFrame_lastHighTicks (b : Block) : (clearFrame b).lastHighTicks = b.lastHighTicks := rfl
@[simp] theorem clearFrame_lastLowTicks (b : Block) : (clearFrame b).lastLowTicks = b.lastLowTicks := rfl
@[simp] theorem clearFrame_address (b : Block) : (clearFrame b).address = 0 := rfl
@[simp] theorem clearFrame_key (b : Block) : (clearFrame b).key = 0 := rfl
@[simp] theorem clearFrame_detected (b : Block) : (clearFrame b).detected = false := rfl

@[simp] theorem setEnabled_enabled (v : Bool) (b : Block) : (setEnabled v b).enabled = v := rfl
@[simp] theorem setEnabled_bitIndex (v : Bool) (b : Block) : (setEnabled v b).bitIndex = b.bitIndex := rfl
@[simp] theorem setEnabled_accumulator (v : Bool) (b : Block) : (setEnabled v b).accumulator = b.accumulator := rfl
@[simp] theorem setEnabled_lastEdgeTicks (v : Bool) (b : Block) : (setEnabled v b).lastEdgeTicks = b.lastEdgeTicks := rfl
@[simp] theorem setEnabled_pendingLevel (v : Bool) (b : Block) : (setEnabled v b).pendingLevel = b.pendingLevel := rfl
@[simp] theorem setEnabled_lastHighTicks (v : Bool) (b : Block) : (setEnabled v b).lastHighTicks = b.lastHighTicks := rfl
@[simp] theorem setEnabled_lastLowTicks (v : Bool) (b : Block) : (setEnabled v b).lastLowTicks = b.lastLowTicks := rfl
@[simp] theorem setEnabled_address (v : Bool) (b : Block) : (setEnabled v b).address = b.address := rfl
@[simp] theorem setEnabled_key (v : Bool) (b : Block) : (setEnabled v b).key = b.key := rfl
@[simp] theorem setEnabled_detected (v : Bool) (b : Block) : (setEnabled v b).detected = b.detected := rfl

@[simp] theorem clearDetected_enabled (b : Block) : (clearDetected b).enabled = b.enabled := rfl
@[simp] theorem clearDetected_bitIndex (b : Block) : (clearDetected b).bitIndex = b.bitIndex := rfl
@[simp] theorem clearDetected_accumulator (b : Block) : (clearDetected b).accumulator = b.accumulator := rfl
@[simp] theorem clearDetected_lastEdgeTicks (b : Block) : (clearDetected b).lastEdgeTicks = b.lastEdgeTicks := rfl
@[simp] theorem clearDetected_pendingLevel (b : Block) : (clearDetected b).pendingLevel = b.pendingLevel := rfl
@[simp] theorem clearDetected_lastHighTicks (b : Block) : (clearDetected b).lastHighTicks = b.lastHighTicks := rfl
@[simp] theorem clearDetected_lastLowTicks (b : Block) : (clearDetected b).lastLowTicks = b.lastLowTicks := rfl
@[simp] theorem clearDetected_address (b : Block) : (clearDetected b).address = b.address := rfl
@[simp] theorem clearDetected_key (b : Block) : (clearDetected b).key = b.key := rfl
@[simp] theorem clearDetected_detected (b : Block) : (clearDetected b).detected = false := rfl

/-- Hardware reset leaves the column "hardware reset" of 10_state.md R30, whatever was there. -/
@[simp] theorem hardwareReset_eq (b : Block) : hardwareReset b = Block.reset := rfl

@[simp] theorem onBlock_toBlock (f : Block → Block) (s : State) : (onBlock f s).toBlock = f s.toBlock := rfl
@[simp] theorem onBlock_W (f : Block → Block) (s : State) : (onBlock f s).W = s.W := rfl
@[simp] theorem onBlock_events (f : Block → Block) (s : State) : (onBlock f s).events = s.events := rfl
@[simp] theorem onBlock_results (f : Block → Block) (s : State) : (onBlock f s).results = s.results := rfl

/-- Two block operations on one state are their composition. -/
theorem onBlock_onBlock (f g : Block → Block) (s : State) :
    onBlock f (onBlock g s) = onBlock (fun b => f (g b)) s := rfl

/-- A block operation that leaves this block as it is leaves the state as it is. -/
theorem onBlock_eq_self {f : Block → Block} {s : State} (h : f s.toBlock = s.toBlock) : onBlock f s = s := by
  cases s; simp only [onBlock] at *; rw [h]

@[simp] theorem putResult_toBlock (w : ResultWord) (s : State) : (putResult w s).toBlock = s.toBlock := rfl
@[simp] theorem putResult_W (w : ResultWord) (s : State) : (putResult w s).W = s.W := rfl
@[simp] theorem putResult_events (w : ResultWord) (s : State) : (putResult w s).events = s.events := rfl
@[simp] theorem putResult_results (w : ResultWord) (s : State) : (putResult w s).results = s.results ++ [w] := rfl

@[simp] theorem present_toBlock (es : List Event) (s : State) : (present es s).toBlock = s.toBlock := rfl
@[simp] theorem present_W (es : List Event) (s : State) : (present es s).W = s.W := rfl
@[simp] theorem present_events (es : List Event) (s : State) : (present es s).events = es ++ s.events := rfl
@[simp] theorem present_results (es : List Event) (s : State) : (present es s).results = s.results := rfl

/-- A state is its block, its width and its ports. -/
theorem State.ext_parts {s t : State} (hb : s.toBlock = t.toBlock) (hw : s.W = t.W) (he : s.events = t.events)
    (hr : s.results = t.results) : s = t := by
  cases s; cases t; simp_all

end Sys2Proof.Machine
end

