-- ==== Sys2Proof/Laws/Ops.lean ====
section
/-! SUPPORT. For each shared operation one lemma that says what it can do, for proofs to cite instead of unfolding it. -/

namespace Sys2Proof.Machine

/-- Validation over the exact numbers: `450 < h + l < 8500` (41_pulse_pair.md R92). -/
theorem pairValid_iff (h l : Nat) :
    pairValid h l = true ↔
      Config.MIN_PULSE_TICKS < h + l ∧ h + l < Config.MAX_PULSE_TICKS := by
  simp only [pairValid, Bool.and_eq_true, decide_eq_true_eq]

/-- The pair is invalid exactly outside the open interval (41_pulse_pair.md R92). -/
theorem pairValid_eq_false_iff (h l : Nat) :
    pairValid h l = false ↔
      h + l ≤ Config.MIN_PULSE_TICKS ∨ Config.MAX_PULSE_TICKS ≤ h + l := by
  rw [← Bool.not_eq_true, pairValid_iff, not_and_or, not_lt, not_lt]

/-- The preamble test over the exact numbers (41_pulse_pair.md R94). -/
theorem preambleMatch_iff (h l : Nat) :
    preambleMatch h l = true ↔
      Config.PRE_MIN_MULT * h ≤ l ∧ l ≤ Config.PRE_MAX_MULT * h := by
  simp only [preambleMatch, Bool.and_eq_true, decide_eq_true_eq]

/-- The bit over the exact numbers (41_pulse_pair.md R98). -/
theorem bitValue_iff (h l : Nat) :
    bitValue h l = true ↔ Config.BIT_NUM * l ≤ Config.BIT_DEN * h := by
  simp only [bitValue, decide_eq_true_eq]

/-- The measured duration, as an integer, is the difference modulo `2^W` (43_edge_front_end.md R122). -/
theorem elapsed_cast (W : Nat) (ticks last : Nat) :
    (elapsed W ticks last : ℤ) = ((ticks : ℤ) - last) % 2 ^ W := by
  have hpos : (0 : ℤ) < ((2 ^ W : Nat) : ℤ) := by positivity
  rw [elapsed, Int.toNat_of_nonneg (Int.emod_nonneg _ hpos.ne')]
  push_cast; rfl

/-- The measured duration is a `W`-bit value (43_edge_front_end.md R122). -/
theorem elapsed_lt (W : Nat) (ticks last : Nat) : elapsed W ticks last < 2 ^ W := by
  have h := Int.emod_lt_of_pos ((ticks : ℤ) - last) (show (0 : ℤ) < 2 ^ W by positivity)
  rw [← elapsed_cast] at h
  exact_mod_cast h

/-- An edge `d < 2^W` ticks after the last one, by the free-running counter, measures `d` (43_edge_front_end.md R120, R122). -/
theorem elapsed_add_mod {W d : Nat} (last : Nat) (hd : d < 2 ^ W) : elapsed W ((last + d) % 2 ^ W) last = d := by
  have h : (elapsed W ((last + d) % 2 ^ W) last : ℤ) = (d : ℤ) := by
    rw [elapsed_cast]
    push_cast
    rw [Int.emod_sub_emod, add_sub_cancel_left]
    exact Int.emod_eq_of_lt (by positivity) (by exact_mod_cast hd)
  exact_mod_cast h

/-- The same, where the last edge's reading is itself a sum taken modulo `2^W`. -/
theorem elapsed_mod_mod {W d : Nat} (last : Nat) (hd : d < 2 ^ W) :
    elapsed W ((last + d) % 2 ^ W) (last % 2 ^ W) = d := by
  have h := elapsed_add_mod (last % 2 ^ W) hd
  rwa [Nat.mod_add_mod] at h

/-- Each accumulator bit after a placement in a legal slot: bit `23 - k` is the new bit, the others stay (41_pulse_pair.md R99). -/
theorem placeBit_getLsbD (a : BitVec Config.N_BITS) (k : BitVec 6) (v : Bool) (i : Nat) (hk : k.toNat ≤ 23) :
    (placeBit a k v).getLsbD i = if i = 23 - k.toNat then v else a.getLsbD i := by
  have hp : 23 - k.toNat < Config.N_BITS := by simp only [Config.N_BITS]; omega
  have he : placeBit a k v = (a &&& ~~~(1#Config.N_BITS <<< (23 - k.toNat))) |||
      ((BitVec.ofBool v).setWidth Config.N_BITS <<< (23 - k.toNat)) := if_pos hk
  rw [he]
  generalize 23 - k.toNat = p at hp ⊢
  simp only [BitVec.getLsbD_or, BitVec.getLsbD_and, BitVec.getLsbD_not, BitVec.getLsbD_shiftLeft,
    BitVec.getLsbD_setWidth, BitVec.getLsbD_one, BitVec.getLsbD_ofBool]
  by_cases hi : i < Config.N_BITS
  · rcases Nat.lt_trichotomy i p with hlt | rfl | hgt
    · have hne : i ≠ p := by omega
      simp [hi, hlt, hne]
    · simp [hi]
    · have hne : i ≠ p := by omega
      have hge : ¬ i < p := by omega
      have hsub : i - p ≠ 0 := by omega
      simp [hi, hge, hne, hsub]
  · have hne : i ≠ p := by omega
    simp [hi, hne, BitVec.getLsbD_of_ge a i (by omega)]

/-- An index that is no slot replaces no bit (log 7). -/
theorem placeBit_of_no_slot (a : BitVec Config.N_BITS) (k : BitVec 6) (v : Bool)
    (hk : 23 < k.toNat) : placeBit a k v = a :=
  if_neg (Nat.not_le.mpr hk)

/-- An invalid pair (41_pulse_pair.md R92, R93). -/
theorem pairProcedure_of_invalid {h l : Nat} {b : Block} (hv : pairValid h l = false) :
    pairProcedure h l b = abortToSeeking b := by
  simp [pairProcedure, hv]

/-- A valid pair while seeking that is a preamble (41_pulse_pair.md R94). -/
theorem pairProcedure_of_preamble {h l : Nat} {b : Block} (hv : pairValid h l = true)
    (hs : b.bitIndex = seekingIndex) (hp : preambleMatch h l = true) :
    pairProcedure h l b = startCollecting b := by
  simp [pairProcedure, hv, hs, hp]

/-- A valid pair while seeking that is no preamble (41_pulse_pair.md R95). -/
theorem pairProcedure_of_noMatch {h l : Nat} {b : Block} (hv : pairValid h l = true)
    (hs : b.bitIndex = seekingIndex) (hp : preambleMatch h l = false) :
    pairProcedure h l b = b := by
  simp [pairProcedure, hv, hs, hp]

/-- The valid pair of the last slot (41_pulse_pair.md R100). -/
theorem pairProcedure_of_last {h l : Nat} {b : Block} (hv : pairValid h l = true)
    (hl : b.bitIndex = lastIndex) :
    pairProcedure h l b = completeFrame (placeBit b.accumulator b.bitIndex (bitValue h l)) b := by
  have hne : lastIndex ≠ seekingIndex := by decide
  simp [pairProcedure, hv, hl, hne]

/-- The valid pair of any other slot (41_pulse_pair.md R99). -/
theorem pairProcedure_of_slot {h l : Nat} {b : Block} (hv : pairValid h l = true)
    (hs : b.bitIndex ≠ seekingIndex) (hl : b.bitIndex ≠ lastIndex) :
    pairProcedure h l b = storeBit (bitValue h l) b := by
  simp [pairProcedure, hv, hs, hl]

/-- Everything the pair procedure can do, with the guard of each case (41_pulse_pair.md R102). -/
theorem pairProcedure_cases (h l : Nat) (b : Block) :
    (pairValid h l = false ∧ pairProcedure h l b = abortToSeeking b) ∨
    (pairValid h l = true ∧ b.bitIndex = seekingIndex ∧ preambleMatch h l = true ∧
      pairProcedure h l b = startCollecting b) ∨
    (pairValid h l = true ∧ b.bitIndex = seekingIndex ∧ preambleMatch h l = false ∧
      pairProcedure h l b = b) ∨
    (pairValid h l = true ∧ b.bitIndex = lastIndex ∧
      pairProcedure h l b = completeFrame (placeBit b.accumulator b.bitIndex (bitValue h l)) b) ∨
    (pairValid h l = true ∧ b.bitIndex ≠ seekingIndex ∧ b.bitIndex ≠ lastIndex ∧
      pairProcedure h l b = storeBit (bitValue h l) b) := by
  rcases hv : pairValid h l with _ | _
  · exact .inl ⟨rfl, pairProcedure_of_invalid hv⟩
  · by_cases hs : b.bitIndex = seekingIndex
    · rcases hp : preambleMatch h l with _ | _
      · exact .inr (.inr (.inl ⟨rfl, hs, rfl, pairProcedure_of_noMatch hv hs hp⟩))
      · exact .inr (.inl ⟨rfl, hs, rfl, pairProcedure_of_preamble hv hs hp⟩)
    · by_cases hl : b.bitIndex = lastIndex
      · exact .inr (.inr (.inr (.inl ⟨rfl, hl, pairProcedure_of_last hv hl⟩)))
      · exact .inr (.inr (.inr (.inr ⟨rfl, hs, hl, pairProcedure_of_slot hv hs hl⟩)))

/-- The pair procedure touches neither the enable bit nor the front end (41_pulse_pair.md R103 (f)). -/
theorem pairProcedure_frame (h l : Nat) (b : Block) :
    (pairProcedure h l b).enabled = b.enabled ∧
    (pairProcedure h l b).lastEdgeTicks = b.lastEdgeTicks ∧
    (pairProcedure h l b).pendingLevel = b.pendingLevel ∧
    (pairProcedure h l b).lastHighTicks = b.lastHighTicks ∧
    (pairProcedure h l b).lastLowTicks = b.lastLowTicks := by
  obtain ⟨-, e⟩ | ⟨-, -, -, e⟩ | ⟨-, -, -, e⟩ | ⟨-, -, e⟩ | ⟨-, -, -, e⟩ := pairProcedure_cases h l b <;> simp [e]

/-- The pair procedure and a LOW measurement do not see each other (10_state.md R32). -/
theorem pairProcedure_measureLow (h l : Nat) (W t : Nat) (b : Block) :
    pairProcedure h l (measureLow W t b) = measureLow W t (pairProcedure h l b) := by
  obtain ⟨hv, e⟩ | ⟨hv, hs, hp, e⟩ | ⟨hv, hs, hp, e⟩ | ⟨hv, hl, e⟩ | ⟨hv, hs, hl, e⟩ := pairProcedure_cases h l b
  · rw [e, pairProcedure_of_invalid hv]; rfl
  · rw [e, pairProcedure_of_preamble (b := measureLow W t b) hv hs hp]; rfl
  · rw [e, pairProcedure_of_noMatch (b := measureLow W t b) hv hs hp]
  · rw [e, pairProcedure_of_last (b := measureLow W t b) hv hl]; rfl
  · rw [e, pairProcedure_of_slot (b := measureLow W t b) hv hs hl]; rfl

/-- An enabled block runs the gated operation. -/
theorem whenEnabled_of_enabled {f : Block → Block} {b : Block} (h : b.enabled = true) : whenEnabled f b = f b := by
  simp [whenEnabled, h]

/-- A disabled block does not (41_pulse_pair.md R91, 43_edge_front_end.md R121). -/
theorem whenEnabled_of_disabled {f : Block → Block} {b : Block} (h : b.enabled = false) : whenEnabled f b = b := by
  simp [whenEnabled, h]

/-- A falling edge in sequence (43_edge_front_end.md R123). -/
theorem fallingEdge_in_sequence {W t : Nat} {b : Block} (h : b.pendingLevel = .high) :
    fallingEdge W t b = expectLevel .low (measureHigh W t b) := by
  simp [fallingEdge, sequenceError, h]

/-- A falling edge out of sequence (43_edge_front_end.md R124). -/
theorem fallingEdge_sequence_error {W t : Nat} {b : Block} (h : b.pendingLevel = .low) :
    fallingEdge W t b = expectLevel .low (abortToSeeking (measureHigh W t b)) := by
  simp [fallingEdge, sequenceError, h]

/-- A rising edge in sequence (43_edge_front_end.md R125). -/
theorem risingEdge_in_sequence {W t : Nat} {b : Block} (h : b.pendingLevel = .low) :
    risingEdge W t b =
      expectLevel .high (pairProcedure b.lastHighTicks (elapsed W t b.lastEdgeTicks) (measureLow W t b)) := by
  simp [risingEdge, sequenceError, h]

/-- A rising edge out of sequence (43_edge_front_end.md R124). -/
theorem risingEdge_sequence_error {W t : Nat} {b : Block} (h : b.pendingLevel = .high) :
    risingEdge W t b = expectLevel .high (abortToSeeking (measureLow W t b)) := by
  simp [risingEdge, sequenceError, h]

/-- With nothing presented there is no event to take. -/
theorem takeEvent_nil {s : State} (h : s.events = []) : takeEvent s = none := by
  simp [takeEvent, h]

/-- The oldest event is the one taken, and the others wait. -/
theorem takeEvent_cons {s : State} {e : Event} {rest : List Event} (h : s.events = e :: rest) :
    takeEvent s = some (e, { s with events := rest }) := by
  simp [takeEvent, h]

end Sys2Proof.Machine
end

