-- ==== Sys2Proof/Laws/Exec.lean ====
section
/-! SUPPORT. `exec` as one equation per operation, over the shared operations. -/

namespace Sys2Proof.Machine

theorem exec_reserved (s : State) : exec .reserved s = .next s := rfl

theorem exec_init (s : State) :
    exec .init s = .next (onBlock (fun b => setEnabled true (clearFrame (clearDecoder b))) s) := rfl

theorem exec_shutdown (s : State) :
    exec .shutdown s = .next (onBlock (fun b => setEnabled false (clearDecoder b)) s) := rfl

theorem exec_pair (h l : Nat) (s : State) :
    exec (.pair h l) s = .next (onBlock (whenEnabled (pairProcedure h l)) s) := rfl

theorem exec_readframe (s : State) : exec .readframe s = .next (putResult (frameWord s.toBlock) s) := rfl

theorem exec_clrdet (s : State) : exec .clrdet s = .next (onBlock clearDetected s) := rfl

theorem exec_edger (t : Nat) (s : State) :
    exec (.edger t) s = .next (onBlock (whenEnabled (risingEdge s.W t)) s) := rfl

theorem exec_edgef (t : Nat) (s : State) :
    exec (.edgef t) s = .next (onBlock (whenEnabled (fallingEdge s.W t)) s) := rfl

/-- A step on a pending command. -/
theorem step_eq_of_command {s : State} {w : Nat} {rest : List Event} (h : s.events = .command w :: rest) :
    step s = exec (decode s.W w) { s with events := rest } := by
  simp [step, takeEvent_cons h]

/-- A step on a pending pulse of the reset input. -/
theorem step_eq_of_reset {s : State} {rest : List Event} (h : s.events = .hardwareReset :: rest) :
    step s = .next (onBlock hardwareReset { s with events := rest }) := by
  simp [step, takeEvent_cons h]

/-- A step with nothing presented. -/
theorem step_eq_of_nil {s : State} (h : s.events = []) : step s = .next s := by
  simp [step, takeEvent_nil h]

end Sys2Proof.Machine
end

