-- ==== Sys2Proof/Laws/PerInstr.lean ====
section
/-! SUPPORT. Statements about every operation as syntax, one lemma per constructor. -/

namespace Sys2Proof.Laws.EncodeFields

/-- At every tick width, the command word of a well-formed operation carries its opcode and its two operand fields, each in its place
(30_encoding.md R60, R62). -/
def Statement (i : Instr) : Prop :=
  ∀ W : Nat, i.wellFormed W = true →
    CommandWord.op W (encode W i) = i.opcode ∧ CommandWord.fieldA W (encode W i) = i.operandA ∧
      CommandWord.fieldB W (encode W i) = i.operandB

theorem reserved : Statement .reserved := fun _ h => ⟨encode_op h, encode_fieldA h, encode_fieldB h⟩
theorem init : Statement .init := fun _ h => ⟨encode_op h, encode_fieldA h, encode_fieldB h⟩
theorem shutdown : Statement .shutdown := fun _ h => ⟨encode_op h, encode_fieldA h, encode_fieldB h⟩
theorem pair (a b : Nat) : Statement (.pair a b) := fun _ h => ⟨encode_op h, encode_fieldA h, encode_fieldB h⟩
theorem readframe : Statement .readframe := fun _ h => ⟨encode_op h, encode_fieldA h, encode_fieldB h⟩
theorem clrdet : Statement .clrdet := fun _ h => ⟨encode_op h, encode_fieldA h, encode_fieldB h⟩
theorem edger (t : Nat) : Statement (.edger t) := fun _ h => ⟨encode_op h, encode_fieldA h, encode_fieldB h⟩
theorem edgef (t : Nat) : Statement (.edgef t) := fun _ h => ⟨encode_op h, encode_fieldA h, encode_fieldB h⟩

end Sys2Proof.Laws.EncodeFields
end

