-- ==== Sys2Proof/Tests/Slice0.lean ====
section
/-! SUPPORT. The model's own tests. Expected results come from the tables of 95_test_vectors.md (named at each test) or from hand
calculation by the rule named. After them, for every obligation with hypotheses, a concrete state and operands that meet them. -/

namespace Sys2Proof.Tests

open Sys2Proof.Machine

/- Well-formedness: each check refuses an ill-formed term. -/

/-- R60: a command word has 35 bits; bit 35 does not exist. -/
theorem test_wide_number_is_no_command_word :
    fitsCommandWord 16 0x800000000 = false ∧ fitsCommandWord 16 0x7FFFFFFFF = true := by decide

/-- R68: an operand is below `2^W`. -/
theorem test_operand_out_of_range : operandInRange 16 65536 = false ∧ operandInRange 16 65535 = true := by decide

/-- R64: junk in an ignored field makes a word not canonical (V-ENC rows 2, 11, 14); format P ignores nothing (row 6). -/
theorem test_junk_is_not_canonical :
    CommandWord.isCanonical 16 0x1FFFFFFFF = false ∧ CommandWord.isCanonical 16 0x6ABCD1234 = false ∧
      CommandWord.isCanonical 16 0x0FFFFFFFF = false ∧ CommandWord.isCanonical 16 0x3FFFFFFFF = true := by decide

/-- R63: the largest operands are legal. -/
theorem test_no_illegal_operand : Instr.wellFormed 16 (.pair 65535 65535) = true := by decide

/-- An operation with an operand that its block's command word cannot carry is ill formed, on every block of smaller width. -/
theorem test_operand_too_wide :
    Instr.wellFormed 16 (.pair 65536 0) = false ∧ Instr.wellFormed 16 (.pair 0 65536) = false ∧
      Instr.wellFormed 14 (.edger 16384) = false ∧ Instr.wellFormed 14 (.edgef 16384) = false ∧
      Instr.wellFormed 17 (.pair 65536 0) = true := by decide

/-- A number that is no command word is rejected by name (log 15). -/
theorem test_wide_number_rejected_by_name : decodeNumber 16 0x800000000 = .error .wordTooWide := by decide

/- Decoding, words written out from V-ENC (for `W = 16`), and at the end from R60 for other widths. -/

/-- V-ENC row 13. -/
theorem test_decode_reserved : decode 16 0b00000000000000000000000000000000000 = .reserved := by decide

/-- V-ENC row 14. -/
theorem test_decode_reserved_with_operands : decode 16 0x0FFFFFFFF = .reserved := by decide

/-- V-ENC row 1. -/
theorem test_decode_init : decode 16 0b00100000000000000000000000000000000 = .init := by decide

/-- V-ENC row 2. -/
theorem test_decode_init_with_junk : decode 16 0x1FFFFFFFF = .init := by decide

/-- V-ENC row 3. -/
theorem test_decode_shutdown : decode 16 0b01000000000000000000000000000000000 = .shutdown := by decide

/-- V-ENC row 4: `011 0000000011111010 0001111001000110`. -/
theorem test_decode_pair : decode 16 0b01100000000111110100001111001000110 = .pair 250 7750 := by decide

/-- V-ENC row 5: `011 0000001110000100 0000000100101100`. -/
theorem test_decode_pair_source_example : decode 16 0b01100000011100001000000000100101100 = .pair 900 300 := by decide

/-- V-ENC row 8. -/
theorem test_decode_readframe : decode 16 0b10000000000000000000000000000000000 = .readframe := by decide

/-- V-ENC row 9. -/
theorem test_decode_clrdet : decode 16 0b10100000000000000000000000000000000 = .clrdet := by decide

/-- V-ENC row 10: `110 0000000000000000 0000100110100000`. -/
theorem test_decode_edger : decode 16 0b11000000000000000000000100110100000 = .edger 2464 := by decide

/-- V-ENC row 11: `A` ignored. -/
theorem test_decode_edger_with_junk : decode 16 0x6ABCD1234 = .edger 0x1234 := by decide

/-- V-ENC row 12: `111 0000000000000000 1110101101011010`. -/
theorem test_decode_edgef : decode 16 0b11100000000000000001110101101011010 = .edgef 60250 := by decide

/-- The canonical words of V-ENC. -/
theorem test_encode :
    encode 16 .reserved = 0x000000000 ∧ encode 16 .init = 0x100000000 ∧ encode 16 .shutdown = 0x200000000 ∧
      encode 16 (.pair 900 300) = 0x30384012C ∧ encode 16 .readframe = 0x400000000 ∧
      encode 16 .clrdet = 0x500000000 ∧ encode 16 (.edger 0x1234) = 0x600001234 ∧
      encode 16 (.edgef 60250) = 0x70000EB5A := by decide

/-- R60 for `W = 14`: `op` in bits 30..28, `A` in 27..14, `B` in 13..0; `011 00000011111010 01111001000110`. -/
theorem test_decode_pair_14 : decode 14 0b0110000001111101001111001000110 = .pair 250 7750 := by decide

/-- R60 for `W = 20`: `op` in bits 42..40; `011 0x18704 0x00064`: an operand beyond 16 bits. -/
theorem test_decode_pair_20 : decode 20 0x31870400064 = .pair 100100 100 ∧ encode 20 (.pair 100100 100) = 0x31870400064 := by
  decide

/-- The host's reading of a table row, and the table's numbering: one word, bit 0 least significant. -/
theorem test_table_word :
    decodeTableWord 40 0x300FA1E46 = some (.pair 250 7750) ∧ decodeTableWord 35 0x70000EB5A = some (.edgef 60250) ∧
      decodeTableWord 40 0x800000000 = none := by decide

/- Small states. -/

/-- The outcome's next state, if it has one. -/
def after : Host.Outcome State Fault Refusal → Option State
  | .next s => some s
  | .fault _ => none
  | .refused _ => none

/-- An enabled block in slot `index` with `accumulator`, everything else at reset (the start states of V-VAL to V-ACC). -/
def at' (index : BitVec 6) (accumulator : BitVec 24) : State :=
  { State.reset with enabled := true, bitIndex := index, accumulator := accumulator }

/-- The state X of V-LIFE. -/
def stateX : State :=
  { State.reset with
    enabled := true, bitIndex := 7, accumulator := 0xFE0000, lastEdgeTicks := 5, pendingLevel := .low,
    lastHighTicks := 9, lastLowTicks := 8, address := 0x12345, key := 0xA, detected := true }

/-- An enabled block in slot `index` whose front end has seen an edge at `last` (the start states of V-EDGE). -/
def edgeAt (index : BitVec 6) (accumulator : BitVec 24) (last : Nat) (level : Level) (high : Nat) : State :=
  { at' index accumulator with lastEdgeTicks := last, pendingLevel := level, lastHighTicks := high }

/- The tests of the data path. -/

/-- V-VAL rows 2, 4, 8, 9: the bounds are exclusive. -/
theorem test_validation_bounds :
    pairValid 225 225 = false ∧ pairValid 1 450 = true ∧ pairValid 4249 4250 = true ∧ pairValid 4250 4250 = false := by
  decide

/-- V-VAL rows 13, 14: the sum is exact; a 16-bit sum of row 14 would pass. -/
theorem test_validation_is_exact : pairValid 65535 65535 = false ∧ pairValid 60000 6000 = false := by decide

/-- V-PRE rows 1, 2, 4, 5: the bounds are inclusive. -/
theorem test_preamble_bounds :
    preambleMatch 100 2499 = false ∧ preambleMatch 100 2500 = true ∧ preambleMatch 100 4000 = true ∧
      preambleMatch 100 4001 = false := by decide

/-- V-PRE row 18: `h = 0` with a valid sum never matches. -/
theorem test_preamble_needs_a_high : preambleMatch 0 500 = false := by decide

/-- V-BIT rows 3, 4, 7, 8: exactly 1.5, just under it, and an odd `l`. -/
theorem test_bit_threshold :
    bitValue 600 400 = true ∧ bitValue 599 400 = false ∧ bitValue 451 301 = false ∧ bitValue 452 301 = true := by decide

/-- The order of tests (R143): V-LIFE row 6, V-BIT row 13, V-PRE rows 17 and 1, V-BIT row 12, V-ACC row 8. -/
theorem test_classes :
    classify State.reset.toBlock 250 7750 = .ignored ∧ classify (at' 0 0).toBlock 3 2 = .invalid ∧
      classify (at' (-1) 0).toBlock 250 7750 = .preamble ∧ classify (at' (-1) 0).toBlock 100 2499 = .noMatch ∧
      classify (at' 0 0).toBlock 250 7750 = .bit false ∧ classify (at' 23 0x12345A).toBlock 250 750 = .frame false := by
  decide

/- One step of each operation. -/

/-- V-LIFE row 9. -/
theorem test_reserved : after (exec .reserved stateX) = some stateX := by decide

/-- V-LIFE row 1. -/
theorem test_init : after (exec .init stateX) = some { State.reset with enabled := true } := by decide

/-- V-LIFE row 2. -/
theorem test_shutdown : after (exec .shutdown stateX) =
    some { State.reset with address := 0x12345, key := 0xA, detected := true } := by decide

/-- V-ACC row 3: the last address bit goes to bit 4. -/
theorem test_pair_places_a_bit : after (exec (.pair 750 250) (at' 19 0)) = some (at' 20 0x000010) := by decide

/-- V-ACC row 7: the frame is complete. -/
theorem test_pair_completes : after (exec (.pair 750 250) (at' 23 0x12345A)) =
    some { at' (-1) 0 with address := 0x12345, key := 0xB, detected := true } := by decide

/-- V-CON row 1. -/
theorem test_readframe : (after (exec .readframe stateX)).map (·.results) = some [0x0112345A#32] := by decide

/-- V-CON row 5: the largest word. -/
theorem test_readframe_largest :
    frameWord { Block.reset with address := 0xFFFFF, key := 0xF, detected := true } = 0x01FFFFFF#32 := by decide

/-- V-CON row 9: the frame in progress is not disturbed. -/
theorem test_clrdet : after (exec .clrdet { at' 9 0x120000 with address := 1, key := 2, detected := true }) =
    some { at' 9 0x120000 with address := 1, key := 2 } := by decide

/-- V-EDGE row 2: the counter wrapped, and the pair is a preamble. -/
theorem test_edger_in_sequence : after (exec (.edger 2464) (edgeAt (-1) 0 60250 .low 250)) =
    some { edgeAt 0 0 2464 .high 250 with lastLowTicks := 7750 } := by decide

/-- V-EDGE row 5: two rising edges. -/
theorem test_edger_out_of_sequence : after (exec (.edger 1250) (edgeAt 3 0xE00000 1000 .high 750)) =
    some { edgeAt (-1) 0 1250 .high 750 with lastLowTicks := 250 } := by decide

/-- V-EDGE row 1. -/
theorem test_edgef_in_sequence : after (exec (.edgef 60250) (edgeAt (-1) 0 60000 .high 0)) =
    some (edgeAt (-1) 0 60250 .low 250) := by decide

/-- V-EDGE row 6: two falling edges. -/
theorem test_edgef_out_of_sequence : after (exec (.edgef 1250) (edgeAt 3 0xE00000 1000 .low 750)) =
    some (edgeAt (-1) 0 1250 .low 250) := by decide

/-- R160: the reset input. -/
theorem test_hardware_reset : after (step { stateX with events := [.hardwareReset] }) = some State.reset := by decide

/-- The word placed by the host is the next one performed. -/
theorem test_fetch_word :
    after (step (State.reset.withFetchWord 40 0x100000000)) = some { State.reset with enabled := true } := by decide

/-- R122 at the smallest width: `(100 - 16300) mod 2^14 = 184`; at `2^16` it would be 49336. -/
theorem test_elapsed_wraps_at_the_width : elapsed 14 100 16300 = 184 ∧ elapsed 16 100 16300 = 49336 := by decide

/-- R122 on a machine of the smallest width. -/
theorem test_edgef_14 : (after (exec (.edgef 100) { edgeAt (-1) 0 16300 .high 0 with W := 14 })).map (·.lastHighTicks) = some 184 := by
  decide

/- The textual form (R68) and the pseudo-operations (R69). -/

/-- V-ENC row 4 as text, with blanks and a comment. -/
theorem test_read_pair : readTraceLine 16 "PAIR   250, 0x1E46  ; PRE 250".toList = .ok (some (.pair 250 7750)) := by decide

/-- The result annotation of R68. -/
theorem test_read_readframe : readTraceLine 16 "READFRAME  -> FRAME=0x0112345A".toList = .ok (some .readframe) := by decide

/-- An operand must be below `2^W`. -/
theorem test_read_out_of_range : readTraceLine 16 "EDGER 65536".toList = .error .operandOutOfRange := by decide

/-- The line an operation is written as (V-ENC rows 1, 9). -/
theorem test_trace_line : traceLine .init = some "INIT" ∧ traceLine .clrdet = some "CLRDET" := by decide

/-- The hexadecimal digits of V-CON row 1. -/
theorem test_result_digits : hexDigits 0x0112345A#32 = "0112345A".toList := by decide

/-- Program P1 steps 1 to 5: `SENDFRAME 250, 0x12345, 0xA` begins with the preamble and the bits 0, 0, 0, 1. -/
theorem test_send_frame_begins : (pseudoSendFrame 250 0x12345 0xA).take 5 =
    [.pair 250 7750, .pair 250 750, .pair 250 750, .pair 250 750, .pair 750 250] := by decide

/- Witnesses: a concrete state and operands that meet all hypotheses of an obligation, for each of its clauses. -/

/-- `DecodeOfEncodeIsIdentity`. -/
theorem witness_DecodeOfEncodeIsIdentity : Instr.wellFormed 16 (.edgef 65535) = true := by decide

/-- `IgnoredFieldsCarryNothing`: format N. -/
theorem witness_IgnoredFieldsCarryNothing_N :
    CommandWord.op 16 0x1FFFFFFFF = CommandWord.op 16 0x100000000 ∧
      ((decode 16 0x100000000).format = .P → CommandWord.fieldA 16 0x1FFFFFFFF = CommandWord.fieldA 16 0x100000000) ∧
      ((decode 16 0x100000000).format ≠ .N → CommandWord.fieldB 16 0x1FFFFFFFF = CommandWord.fieldB 16 0x100000000) := by
  decide

/-- `IgnoredFieldsCarryNothing`: format E, with a different field `A`. -/
theorem witness_IgnoredFieldsCarryNothing_E :
    CommandWord.op 16 0x6ABCD1234 = CommandWord.op 16 0x600001234 ∧
      ((decode 16 0x600001234).format = .P → CommandWord.fieldA 16 0x6ABCD1234 = CommandWord.fieldA 16 0x600001234) ∧
      ((decode 16 0x600001234).format ≠ .N → CommandWord.fieldB 16 0x6ABCD1234 = CommandWord.fieldB 16 0x600001234) := by
  decide

/-- `ReservedOpcodeChangesNothing`, second clause. -/
theorem witness_ReservedOpcodeChangesNothing : CommandWord.op 16 0x0FFFFFFFF = 0 := by decide

/-- `StepPerformsTheDecodedOperation`. -/
theorem witness_StepPerformsTheDecodedOperation :
    ({ stateX with events := [.command 0x300FA1E46, .hardwareReset] } : State).events =
        [Event.command 0x300FA1E46, .hardwareReset] ∧
      decode 16 0x300FA1E46 = .pair 250 7750 ∧ Instr.wellFormed 16 (.pair 250 7750) = true := by decide

/-- `StepWaitsForCommands`. -/
theorem witness_StepWaitsForCommands : stateX.events = [] := by decide

/-- `HardwareResetLeavesTheResetValues`. -/
theorem witness_HardwareResetLeavesTheResetValues :
    ({ stateX with events := [.hardwareReset] } : State).events = [Event.hardwareReset] := by decide

/-- `StepKeepsTheInvariant`: the last data bit of a frame. -/
theorem witness_StepKeepsTheInvariant :
    ({ at' 23 0x12345A with events := [.command 0x302EE00FA] } : State).Inv ∧
      (after (step { at' 23 0x12345A with events := [.command 0x302EE00FA] })).isSome = true :=
  ⟨⟨by decide, by decide, ⟨by decide, by decide, by decide, by decide⟩⟩, by decide⟩

/-- `ResetMeetsTheInvariant`: the smallest width. -/
theorem witness_ResetMeetsTheInvariant : Config.W_MIN ≤ 14 := by decide

/-- `EncodeOfDecodeExactlyOnCanonicalWords`: a word of each side. -/
theorem witness_EncodeOfDecodeExactlyOnCanonicalWords :
    fitsCommandWord 16 0x6ABCD1234 = true ∧ CommandWord.isCanonical 16 0x6ABCD1234 = false ∧
      fitsCommandWord 16 0x600001234 = true ∧ CommandWord.isCanonical 16 0x600001234 = true ∧
      fitsCommandWord 16 0x800000000 = false ∧ CommandWord.isCanonical 16 0x800000000 = true := by decide

/-- `BitIndexFollowsTheTransitionTable`: the lifecycle, an edge out of sequence, and the events that leave the index (no pair
submitted; disabled). -/
theorem witness_BitIndexFollowsTheTransitionTable :
    State.reset.events = [] ∧ decode 16 0x100000000 = .init ∧ decode 16 0x200000000 = .shutdown ∧
      (edgeAt 3 0xE00000 1000 .high 750).enabled = true ∧
      edgeOutOfSequence (edgeAt 3 0xE00000 1000 .high 750).toBlock (decode 16 0x6000004E2) = true ∧
      edgeOutOfSequence (edgeAt 3 0xE00000 1000 .low 750).toBlock (decode 16 0x7000004E2) = true ∧
      edgeOutOfSequence (at' 9 0x120000).toBlock (decode 16 0x500000000) = false ∧
      submittedPair 16 (at' 9 0x120000).toBlock (decode 16 0x500000000) = none ∧ State.reset.enabled = false := by decide

/-- `BitIndexFollowsTheTransitionTable`: the pair's cases, at the bounds of the sum and of the ratio and in the slots 0, 22 and 23, by
`PAIR` and (V-EDGE row 4) by `EDGER`. -/
theorem witness_BitIndexFollowsTheTransitionTable_pairs :
    submittedPair 16 (at' 5 0).toBlock (decode 16 0x300E100E1) = some (225, 225) ∧ 225 + 225 ≤ Config.MIN_PULSE_TICKS ∧
      submittedPair 16 (edgeAt 3 0xE00000 1000 .low 750).toBlock (decode 16 0x600002328) = some (750, 8000) ∧
      Config.MAX_PULSE_TICKS ≤ 750 + 8000 ∧ Config.MIN_PULSE_TICKS < 226 + 225 ∧ 4249 + 4250 < Config.MAX_PULSE_TICKS ∧
      (at' (-1) 0).bitIndex = -1 ∧ Config.PRE_MIN_MULT * 100 ≤ 2500 ∧ 4000 ≤ Config.PRE_MAX_MULT * 100 ∧
      2499 < Config.PRE_MIN_MULT * 100 ∧ Config.PRE_MAX_MULT * 100 < 4001 ∧
      (at' 0 0).bitIndex = BitVec.ofNat 6 0 ∧ (at' 22 0).bitIndex = BitVec.ofNat 6 22 ∧ (at' 23 0).bitIndex = 23 := by decide

/-- `OnlyAPreambleStartsCollecting`: into slot 0. -/
theorem witness_OnlyAPreambleStartsCollecting :
    ({ at' (-1) 0 with events := [.command 0x300FA1E46] } : State).IndexInRange ∧
      (after (step { at' (-1) 0 with events := [.command 0x300FA1E46] })).map (·.bitIndex) = some 0 := by decide

/-- `OnlyAPreambleStartsCollecting`: from slot 22 to slot 23. -/
theorem witness_OnlyAPreambleStartsCollecting_slot :
    ({ at' 22 0 with events := [.command 0x302EE00FA] } : State).IndexInRange ∧
      (after (step { at' 22 0 with events := [.command 0x302EE00FA] })).map (·.bitIndex) = some 23 := by decide

/-- The completing event of `DetectedChangesOnlyAsItsRuleSays` and `AddressAndKeyChangeOnlyByCompletionOrReset`. -/
theorem witness_CompletesFrame : CompletesFrame 16 (at' 23 0x12345A).toBlock (decode 16 0x300FA02EE) 0x12345A :=
  ⟨250, 750, by decide, by decide, by decide, by decide, by decide, fun _ _ => rfl⟩

/-- `DetectedChangesOnlyAsItsRuleSays`: set by a completing event. -/
theorem witness_DetectedChangesOnlyAsItsRuleSays_set :
    (at' 23 0x12345A).detected = false ∧
      (after (step { at' 23 0x12345A with events := [.command 0x300FA02EE] })).map (·.detected) = some true := by decide

/-- `DetectedChangesOnlyAsItsRuleSays`: cleared by `CLRDET`, `INIT` and hardware reset. -/
theorem witness_DetectedChangesOnlyAsItsRuleSays_clear :
    stateX.detected = true ∧ decode 16 0x500000000 = .clrdet ∧ decode 16 0x100000000 = .init ∧
      (after (step { stateX with events := [.command 0x500000000] })).map (·.detected) = some false ∧
      (after (step { stateX with events := [.command 0x100000000] })).map (·.detected) = some false ∧
      (after (step { stateX with events := [.hardwareReset] })).map (·.detected) = some false := by decide

/-- `AddressAndKeyChangeOnlyByCompletionOrReset`: each of the three ways. -/
theorem witness_AddressAndKeyChangeOnlyByCompletionOrReset :
    (after (step { at' 23 0x12345A with events := [.command 0x300FA02EE] })).map (·.address) = some 0x12345 ∧
      (at' 23 0x12345A).address = 0 ∧ stateX.address = 0x12345 ∧
      (after (step { stateX with events := [.command 0x100000000] })).map (·.address) = some 0 ∧
      (after (step { stateX with events := [.hardwareReset] })).map (·.address) = some 0 := by decide

/-- `EnabledChangesOnlyByLifecycle`: each of the three ways. -/
theorem witness_EnabledChangesOnlyByLifecycle :
    State.reset.enabled = false ∧ stateX.enabled = true ∧
      (after (step { State.reset with events := [.command 0x100000000] })).map (·.enabled) = some true ∧
      (after (step { stateX with events := [.command 0x200000000] })).map (·.enabled) = some false ∧
      (after (step { stateX with events := [.hardwareReset] })).map (·.enabled) = some false := by decide

/-- `OnlyReadframePutsOutAWord`: an event of each clause. -/
theorem witness_OnlyReadframePutsOutAWord :
    decode 16 0x400000000 = .readframe ∧ decode 16 0x3FFFFFFFF ≠ .readframe ∧
      (after (step { stateX with events := [.command 0x400000000] })).map (·.results) = some [0x0112345A#32] ∧
      (after (step { stateX with events := [.command 0x3FFFFFFFF] })).map (·.results) = some [] := by decide

/-- `EachElementHasItsWriters`: the operations its clauses are about. -/
theorem witness_EachElementHasItsWriters :
    role .reserved = none ∧ role .readframe = some .consumer ∧ role (.pair 250 750) = some .producer ∧
      (at' 23 0x12345A).detected = false ∧
      (after (exec (.pair 250 750) (at' 23 0x12345A))).map (·.detected) = some true ∧ stateX.detected = true ∧
      (after (exec .clrdet stateX)).map (·.detected) = some false ∧
      (after (exec .init stateX)).map (·.detected) = some false := by decide

/-- `DisabledBlockIgnoresProducers` (V-LIFE rows 6 to 8). -/
theorem witness_DisabledBlockIgnoresProducers :
    role (.pair 250 7750) = some .producer ∧ role (.edger 1000) = some .producer ∧
      role (.edgef 1000) = some .producer ∧ State.reset.enabled = false := by decide

/-- `BlockIsInertBeforeInit`: a producer's word, a consumer's word and a reset pulse. -/
theorem witness_BlockIsInertBeforeInit :
    ({ State.reset with events := [.command 0x300FA1E46, .command 0x400000000, .hardwareReset] } : State).toBlock =
        Block.reset ∧
      (∀ w : Nat,
        Event.command w ∈ [Event.command 0x300FA1E46, .command 0x400000000, .hardwareReset] →
          decode 16 w ≠ .init) ∧
      (after (Sys2Proof.core.run 2
        { State.reset with events := [.command 0x300FA1E46, .command 0x400000000, .hardwareReset] })).map
          (·.results) = some [0] := by
  refine ⟨rfl, fun w hw => ?_, by decide⟩
  simp only [List.mem_cons, Event.command.injEq, reduceCtorEq, List.not_mem_nil, or_false] at hw
  rcases hw with rfl | rfl <;> decide

/-- `ValidationBoundsAreExclusive`: the invalid clause at both bounds (sums 450 and 8500), the valid clause at both (451 and 8499). -/
theorem witness_ValidationBoundsAreExclusive :
    (at' 5 0xB00000).enabled = true ∧
      ¬(Config.MIN_PULSE_TICKS < 225 + 225) ∧
      ¬(4250 + 4250 < Config.MAX_PULSE_TICKS) ∧
      (Config.MIN_PULSE_TICKS < 226 + 225 ∧
        226 + 225 < Config.MAX_PULSE_TICKS) ∧
      (Config.MIN_PULSE_TICKS < 4249 + 4250 ∧
        4249 + 4250 < Config.MAX_PULSE_TICKS) ∧
      (at' (-1) 0).bitIndex = -1 ∧ (at' 0 0).bitIndex = BitVec.ofNat 6 0 ∧ (at' 22 0).bitIndex = BitVec.ofNat 6 22 ∧
      (at' 23 0).bitIndex = 23 := by decide

/-- `OutOfRangePairAborts`: `PAIR` at both bounds, and an `EDGER` in sequence (V-EDGE row 4). -/
theorem witness_OutOfRangePairAborts :
    submittedPair 16 (at' 5 0).toBlock (.pair 225 225) = some (225, 225) ∧
      225 + 225 ≤ Config.MIN_PULSE_TICKS ∧
      Config.MAX_PULSE_TICKS ≤ 4250 + 4250 ∧
      submittedPair 16 (edgeAt 3 0xE00000 1000 .low 750).toBlock (.edger 9000) = some (750, 8000) ∧
      Config.MAX_PULSE_TICKS ≤ 750 + 8000 ∧
      (edgeAt 3 0xE00000 1000 .low 750).enabled = true := by decide

/-- `PreambleTestBoundsAreInclusive`: the match at both multipliers, a mismatch beside each, `h = 0`, and slots 0 and 23. -/
theorem witness_PreambleTestBoundsAreInclusive :
    (at' (-1) 0).enabled = true ∧ (at' (-1) 0).bitIndex = -1 ∧
      pairValid 100 2500 = true ∧ Config.PRE_MIN_MULT * 100 = 2500 ∧
      pairValid 100 4000 = true ∧ 4000 = Config.PRE_MAX_MULT * 100 ∧
      pairValid 100 2499 = true ∧ ¬(Config.PRE_MIN_MULT * 100 ≤ 2499) ∧
      pairValid 100 4001 = true ∧ ¬(4001 ≤ Config.PRE_MAX_MULT * 100) ∧
      pairValid 0 500 = true ∧ (at' 0 0).bitIndex = BitVec.ofNat 6 0 ∧ (at' 23 0).bitIndex = BitVec.ofNat 6 23 := by decide

/-- `PreambleMismatchChangesNothing`: just below one multiplier, just above the other (V-PRE rows 1, 5). -/
theorem witness_PreambleMismatchChangesNothing :
    (at' (-1) 0).enabled = true ∧ (at' (-1) 0).bitIndex = -1 ∧ pairValid 100 2499 = true ∧
      2499 < Config.PRE_MIN_MULT * 100 ∧ pairValid 100 4001 = true ∧
      Config.PRE_MAX_MULT * 100 < 4001 := by decide

/-- `BitIsOneExactlyFromThreeHalves` and `BitGoesToItsPlace`: the first and the last slot of each clause, exactly 1.5. -/
theorem witness_BitGoesToItsPlace :
    (at' 0 0).enabled = true ∧ (at' 0 0).bitIndex = BitVec.ofNat 6 0 ∧
      (at' 22 0xFFFFFC).bitIndex = BitVec.ofNat 6 22 ∧ (at' 23 0).bitIndex = BitVec.ofNat 6 23 ∧
      (at' 22 0xFFFFFC).UnfilledSlotsClear ∧ Config.MIN_PULSE_TICKS < 600 + 400 ∧
      600 + 400 < Config.MAX_PULSE_TICKS ∧
      Config.BIT_NUM * 400 = Config.BIT_DEN * 600 := by decide

/-- `LastBitCompletesTheFrame`, `FrameWriteIsUnconditional`, `FrameWordIsTheCompletedValue` and `ReadThenClearRaceLosesTheFlag`: the
last slot, with the smallest and the largest valid sum. -/
theorem witness_LastBitCompletesTheFrame :
    (at' 23 0x12345A).enabled = true ∧ (at' 23 0x12345A).bitIndex = 23 ∧
      Config.MIN_PULSE_TICKS < 451 + 0 ∧
      451 + 0 < Config.MAX_PULSE_TICKS ∧
      Config.MIN_PULSE_TICKS < 0 + 8499 ∧
      0 + 8499 < Config.MAX_PULSE_TICKS := by decide

/-- `PairIsIndependentOfTheFrontEnd`, the clause on an unread frame. -/
theorem witness_PairIsIndependentOfTheFrontEnd : stateX.detected = true := by decide

/-- `PreambleWindow`: the smallest and the largest `h` that start a frame (V-PRE rows 6, 9), and `h = 320` at the ends of its window
and beside them. -/
theorem witness_PreambleWindow :
    (at' (-1) 0).enabled = true ∧ (at' (-1) 0).bitIndex = -1 ∧
      (after (exec (.pair 11 440) (at' (-1) 0))).map (·.bitIndex) = some 0 ∧
      (after (exec (.pair 326 8150) (at' (-1) 0))).map (·.bitIndex) = some 0 ∧ 320 = 320 ∧
      (after (exec (.pair 320 8000) (at' (-1) 0))).map (·.bitIndex) = some 0 ∧
      (after (exec (.pair 320 8179) (at' (-1) 0))).map (·.bitIndex) = some 0 ∧
      (after (exec (.pair 320 8180) (at' (-1) 0))).map (·.bitIndex) = some (-1) := by decide

/-- `NoTwentyFourEventsSetDetected`: an enabled seeking block, with a preamble presented. -/
theorem witness_NoTwentyFourEventsSetDetected :
    ({ at' (-1) 0 with events := [.command 0x300FA1E46] } : State).bitIndex = -1 ∧
      ({ at' (-1) 0 with events := [.command 0x300FA1E46] } : State).detected = false ∧
      ∃ t, Sys2Proof.core.run 24 ({ at' (-1) 0 with events := [.command 0x300FA1E46] } : State) = .next t :=
  ⟨rfl, rfl, _, rfl⟩

/-- `SendFrameDecodesExactlyInItsRange`: both ends of the range, the values beside them, and the largest `T` that fits. -/
theorem witness_SendFrameDecodesExactlyInItsRange :
    (at' (-1) 0).enabled = true ∧ (at' (-1) 0).bitIndex = -1 ∧ (at' (-1) 0).detected = false ∧
      31 * 112 < 2 ^ 16 ∧ 31 * 113 < 2 ^ 16 ∧ 31 * 265 < 2 ^ 16 ∧ 31 * 266 < 2 ^ 16 ∧
      31 * 2114 < 2 ^ 16 := by decide

/-- `FrameAfterAnAbortDecodes` and `EveryStateCanDecodeAFrame`: an aborting pair at each bound, both ends of the range of `T`, on a
block of the default width and of the smallest. -/
theorem witness_FrameAfterAnAbortDecodes :
    (at' 5 0xB00000).enabled = true ∧ Config.W_MIN ≤ (at' 5 0xB00000).W ∧
      ({ at' 5 0xB00000 with W := 14 } : State).enabled = true ∧ Config.W_MIN ≤ ({ at' 5 0xB00000 with W := 14 } : State).W ∧
      8250 < 2 ^ 14 ∧ 225 + 225 ≤ Config.MIN_PULSE_TICKS ∧ Config.MAX_PULSE_TICKS ≤ 250 + 8250 ∧ 113 ≤ 113 ∧ 113 ≤ 265 ∧
      265 ≤ 265 := by decide

/-- `SaturatedDurationAborts`: the shortest duration the operand cannot carry, at the default and at the smallest width. -/
theorem witness_SaturatedDurationAborts :
    (at' 5 0).enabled = true ∧ Config.W_MIN ≤ (at' 5 0).W ∧ 2 ^ (at' 5 0).W ≤ 65536 ∧
      ({ at' 5 0 with W := 14 } : State).enabled = true ∧ Config.W_MIN ≤ ({ at' 5 0 with W := 14 } : State).W ∧
      2 ^ ({ at' 5 0 with W := 14 } : State).W ≤ 16384 := by decide

/-- `SeekingAccumulatorIsUnobservable`. -/
theorem witness_SeekingAccumulatorIsUnobservable : (at' (-1) 0x123456).bitIndex = -1 := by decide

/-- `EdgeStreamSimulatesPairStream`: a preamble and a bit, and the largest operands. -/
theorem witness_EdgeStreamSimulatesPairStream :
    (edgeAt (-1) 0 60000 .high 0).enabled = true ∧ (edgeAt (-1) 0 60000 .high 0).pendingLevel = .high ∧
      ∀ p ∈ [(250, 7750), (250, 750), (65535, 65535)], p.1 < 2 ^ 16 ∧ p.2 < 2 ^ 16 := by decide

/-- `FallingEdgeMeasuresTheHighLevel` and `EdgePairEqualsPair` (V-EDGE row 1). -/
theorem witness_FallingEdgeMeasuresTheHighLevel :
    (edgeAt (-1) 0 60000 .high 0).enabled = true ∧ (edgeAt (-1) 0 60000 .high 0).pendingLevel = .high := by decide

/-- `RisingEdgeCompletesThePair` (V-EDGE row 2). -/
theorem witness_RisingEdgeCompletesThePair :
    (edgeAt (-1) 0 60250 .low 250).enabled = true ∧ (edgeAt (-1) 0 60250 .low 250).pendingLevel = .low := by decide

/-- `EdgeOutOfSequenceAborts`: a falling and a rising edge out of sequence (V-EDGE rows 6, 5). -/
theorem witness_EdgeOutOfSequenceAborts :
    (edgeAt 3 0xE00000 1000 .low 750).enabled = true ∧ (edgeAt 3 0xE00000 1000 .low 750).pendingLevel = .low ∧
      (edgeAt 3 0xE00000 1000 .high 750).enabled = true ∧ (edgeAt 3 0xE00000 1000 .high 750).pendingLevel = .high := by
  decide

end Sys2Proof.Tests
end

section
/-! PROOFS. What an operation does to DecodedFrame (`address`, `key`, `detected`; 10_state.md R19 to R21), said once for every operation
and every event, and the statement of R21 as its consequence. -/

namespace Sys2Proof.Machine

/-- DecodedFrame is the same in both blocks. -/
structure SameFrame (b c : Block) : Prop where
  address : c.address = b.address
  key : c.key = b.key
  detected : c.detected = b.detected

/-- DecodedFrame holds the frame `value`, not yet acknowledged (41_pulse_pair.md R100). -/
structure HoldsFrame (value : BitVec Config.N_BITS) (c : Block) : Prop where
  detected : c.detected = true
  address : c.address = value.extractLsb' Config.KEY_BITS Config.ADDR_BITS
  key : c.key = value.extractLsb' 0 Config.KEY_BITS

/-- The pair, submitted to the block, completes a frame (41_pulse_pair.md R100). -/
structure PairCompletes (b : Block) (h l : Nat) : Prop where
  enabled : b.enabled = true
  last : b.bitIndex = lastIndex
  valid : pairValid h l = true

/-- The value of the frame that the pair completes (41_pulse_pair.md R99, R100). -/
def completedValue (b : Block) (h l : Nat) : BitVec Config.N_BITS :=
  placeBit b.accumulator b.bitIndex (bitValue h l)

/-- What an operation that takes block `b` to block `c` does to DecodedFrame; the four cases exclude each other. -/
inductive FrameEffect (W : Nat) (b : Block) (i : Instr) (c : Block) : Prop
  /-- Frame completion (R100). -/
  | completed (value : BitVec Config.N_BITS) (completes : CompletesFrame W b i value) (holds : HoldsFrame value c)
  /-- `INIT` (40_lifecycle.md R80). -/
  | initialised (isInit : i = .init) (address : c.address = 0) (key : c.key = 0) (detected : c.detected = false)
  /-- `CLRDET` (42_consumer.md R112). -/
  | acknowledged (isClrdet : i = .clrdet) (address : c.address = b.address) (key : c.key = b.key)
      (detected : c.detected = false)
  /-- Every other operation, and a producer operation that completes no frame. -/
  | kept (noFrame : ∀ value, ¬ CompletesFrame W b i value) (notInit : i ≠ .init) (notClrdet : i ≠ .clrdet)
      (same : SameFrame b c)

/- The frame that completes. -/

theorem SameFrame.refl (b : Block) : SameFrame b b := ⟨rfl, rfl, rfl⟩

theorem SameFrame.trans {b c d : Block} (hbc : SameFrame b c) (hcd : SameFrame c d) : SameFrame b d :=
  ⟨hcd.address.trans hbc.address, hcd.key.trans hbc.key, hcd.detected.trans hbc.detected⟩

theorem HoldsFrame.of_sameFrame {value : BitVec Config.N_BITS} {b c : Block} (hb : HoldsFrame value b)
    (hbc : SameFrame b c) : HoldsFrame value c :=
  ⟨hbc.detected.trans hb.detected, hbc.address.trans hb.address, hbc.key.trans hb.key⟩

theorem completeFrame_holdsFrame (value : BitVec Config.N_BITS) (b : Block) :
    HoldsFrame value (completeFrame value b) := ⟨rfl, rfl, rfl⟩

/-- In the last slot a bit is placed at position 0. -/
theorem placeBit_last_getLsbD (a : BitVec Config.N_BITS) (v : Bool) (n : Nat) :
    (placeBit a lastIndex v).getLsbD n = if n = 0 then v else a.getLsbD n :=
  placeBit_getLsbD a lastIndex v n (by decide)

/-- A value agrees with the accumulator beyond bit 0 and has the pair's bit there exactly when it is the accumulator with that bit
placed in the last slot. -/
theorem eq_placeBit_last_iff (value a : BitVec Config.N_BITS) (v : Bool) :
    value = placeBit a lastIndex v ↔
      value.getLsbD 0 = v ∧ ∀ n, 1 ≤ n → value.getLsbD n = a.getLsbD n := by
  constructor
  · rintro rfl
    refine ⟨by rw [placeBit_last_getLsbD, if_pos rfl], fun n hn => ?_⟩
    rw [placeBit_last_getLsbD, if_neg (by omega)]
  · rintro ⟨hbit, hrest⟩
    refine BitVec.eq_of_getLsbD_eq fun n _ => ?_
    rw [placeBit_last_getLsbD]
    split
    · next hn => rw [hn, hbit]
    · next hn => exact hrest n (by omega)

/-- `CompletesFrame` through the pair procedure's own terms: the pair submitted completes, and the value is the one it completes. -/
theorem completesFrame_iff {W : Nat} {b : Block} {i : Instr} {value : BitVec Config.N_BITS} :
    CompletesFrame W b i value ↔
      ∃ h l, submittedPair W b i = some (h, l) ∧ PairCompletes b h l ∧ value = completedValue b h l := by
  constructor
  · rintro ⟨h, l, hsub, hen, hlast, hvalid, hvalue⟩
    refine ⟨h, l, hsub, ⟨hen, hlast, hvalid⟩, ?_⟩
    rwa [completedValue, hlast, eq_placeBit_last_iff]
  · rintro ⟨h, l, hsub, ⟨hen, hlast, hvalid⟩, hvalue⟩
    rw [completedValue, hlast, eq_placeBit_last_iff] at hvalue
    exact ⟨h, l, hsub, hen, hlast, hvalid, hvalue⟩

/-- An operation completes at most one frame. -/
theorem CompletesFrame.value_unique {W : Nat} {b : Block} {i : Instr} {v v' : BitVec Config.N_BITS}
    (hv : CompletesFrame W b i v) (hv' : CompletesFrame W b i v') : v = v' := by
  obtain ⟨h, l, hsub, -, rfl⟩ := completesFrame_iff.mp hv
  obtain ⟨h', l', hsub', -, rfl⟩ := completesFrame_iff.mp hv'
  obtain ⟨rfl, rfl⟩ : h = h' ∧ l = l' := by simpa [hsub] using hsub'
  rfl

/-- An operation that submits no pair completes no frame. -/
theorem not_completesFrame_of_submits_none {W : Nat} {b : Block} {i : Instr} (hsub : submittedPair W b i = none)
    (value : BitVec Config.N_BITS) : ¬ CompletesFrame W b i value := by
  rintro ⟨h, l, hsome, -⟩
  simp [hsub] at hsome

/- The shared operations and DecodedFrame. -/

/-- The completing pair, behind the enable gate. -/
theorem gatedPair_of_completes {b : Block} {h l : Nat} (hc : PairCompletes b h l) :
    whenEnabled (pairProcedure h l) b = completeFrame (completedValue b h l) b := by
  rw [whenEnabled_of_enabled hc.enabled, pairProcedure_of_last hc.valid hc.last, completedValue]

/-- The gate keeps DecodedFrame where the operation behind it does. -/
theorem whenEnabled_sameFrame {f : Block → Block} {b : Block} (hf : SameFrame b (f b)) :
    SameFrame b (whenEnabled f b) := by
  cases hen : b.enabled with
  | false => rw [whenEnabled_of_disabled hen]; exact .refl b
  | true => rwa [whenEnabled_of_enabled hen]

/-- Behind the enable gate, a pair that completes no frame keeps DecodedFrame. -/
theorem gatedPair_sameFrame {b : Block} {h l : Nat} (hc : ¬ PairCompletes b h l) :
    SameFrame b (whenEnabled (pairProcedure h l) b) := by
  cases hen : b.enabled with
  | false => rw [whenEnabled_of_disabled hen]; exact .refl b
  | true =>
    rw [whenEnabled_of_enabled hen]
    obtain ⟨-, e⟩ | ⟨-, -, -, e⟩ | ⟨-, -, -, e⟩ | ⟨hv, hl, -⟩ | ⟨-, -, -, e⟩ := pairProcedure_cases h l b
    case inr.inr.inr.inl => exact absurd ⟨hen, hl, hv⟩ hc
    all_goals rw [e]; exact ⟨rfl, rfl, rfl⟩

/-- A falling edge keeps DecodedFrame (43_edge_front_end.md R123, R124). -/
theorem fallingEdge_sameFrame (W t : Nat) (b : Block) : SameFrame b (fallingEdge W t b) := by
  cases hp : b.pendingLevel with
  | low => rw [fallingEdge_sequence_error hp]; exact ⟨rfl, rfl, rfl⟩
  | high => rw [fallingEdge_in_sequence hp]; exact ⟨rfl, rfl, rfl⟩

/-- A rising edge out of sequence keeps DecodedFrame (43_edge_front_end.md R124). -/
theorem risingEdge_sameFrame_of_sequence_error {W t : Nat} {b : Block} (hp : b.pendingLevel = .high) :
    SameFrame b (risingEdge W t b) := by
  rw [risingEdge_sequence_error hp]; exact ⟨rfl, rfl, rfl⟩

/-- A rising edge in sequence leaves the DecodedFrame that the pair it submits leaves (43_edge_front_end.md R125). -/
theorem gatedRisingEdge_sameFrame {W t : Nat} {b : Block} (hp : b.pendingLevel = .low) :
    SameFrame (whenEnabled (pairProcedure b.lastHighTicks (elapsed W t b.lastEdgeTicks)) b)
      (whenEnabled (risingEdge W t) b) := by
  cases hen : b.enabled with
  | false => rw [whenEnabled_of_disabled hen, whenEnabled_of_disabled hen]; exact .refl b
  | true =>
    rw [whenEnabled_of_enabled hen, whenEnabled_of_enabled hen, risingEdge_in_sequence hp, pairProcedure_measureLow]
    exact ⟨rfl, rfl, rfl⟩

/- Every operation and DecodedFrame. -/

/-- An operation that submits no pair, and is neither `INIT` nor `CLRDET`, and keeps DecodedFrame. -/
theorem FrameEffect.of_submits_none {W : Nat} {b c : Block} {i : Instr} (hsub : submittedPair W b i = none)
    (hinit : i ≠ .init) (hclr : i ≠ .clrdet) (hsame : SameFrame b c) : FrameEffect W b i c :=
  .kept (not_completesFrame_of_submits_none hsub) hinit hclr hsame

/-- An operation that submits a pair, and leaves the DecodedFrame that the gated pair procedure leaves. -/
theorem FrameEffect.of_submits {W : Nat} {b c : Block} {i : Instr} {h l : Nat}
    (hsub : submittedPair W b i = some (h, l)) (hc : SameFrame (whenEnabled (pairProcedure h l) b) c) :
    FrameEffect W b i c := by
  by_cases hcomp : PairCompletes b h l
  · rw [gatedPair_of_completes hcomp] at hc
    exact .completed _ (completesFrame_iff.mpr ⟨h, l, hsub, hcomp, rfl⟩)
      ((completeFrame_holdsFrame _ b).of_sameFrame hc)
  · refine .kept (fun value hv => ?_) ?_ ?_ ((gatedPair_sameFrame hcomp).trans hc)
    · obtain ⟨h', l', hsub', hcomp', -⟩ := completesFrame_iff.mp hv
      obtain ⟨rfl, rfl⟩ : h = h' ∧ l = l' := by simpa [hsub] using hsub'
      exact hcomp hcomp'
    · rintro rfl; cases hsub
    · rintro rfl; cases hsub

/-- The pair an `EDGER` in sequence submits (43_edge_front_end.md R125). -/
theorem submittedPair_edger_in_sequence {W t : Nat} {b : Block} (hp : b.pendingLevel = .low) :
    submittedPair W b (.edger t) = some (b.lastHighTicks, elapsed W t b.lastEdgeTicks) := by
  simp [submittedPair, sequenceError, hp]

/-- An `EDGER` out of sequence submits none (43_edge_front_end.md R124). -/
theorem submittedPair_edger_sequence_error {W t : Nat} {b : Block} (hp : b.pendingLevel = .high) :
    submittedPair W b (.edger t) = none := by
  simp [submittedPair, sequenceError, hp]

/-- Everything any operation can do to DecodedFrame. -/
theorem exec_frameEffect (i : Instr) (s : State) :
    ∃ t : State, exec i s = .next t ∧ FrameEffect s.W s.toBlock i t.toBlock := by
  cases i with
  | reserved => exact ⟨_, exec_reserved s, .of_submits_none rfl nofun nofun (.refl _)⟩
  | init => exact ⟨_, exec_init s, .initialised rfl rfl rfl rfl⟩
  | shutdown => exact ⟨_, exec_shutdown s, .of_submits_none rfl nofun nofun ⟨rfl, rfl, rfl⟩⟩
  | pair h l => exact ⟨_, exec_pair h l s, .of_submits rfl (.refl _)⟩
  | readframe => exact ⟨_, exec_readframe s, .of_submits_none rfl nofun nofun (.refl _)⟩
  | clrdet => exact ⟨_, exec_clrdet s, .acknowledged rfl rfl rfl rfl⟩
  | edgef t =>
    exact ⟨_, exec_edgef t s,
      .of_submits_none rfl nofun nofun (whenEnabled_sameFrame (fallingEdge_sameFrame s.W t _))⟩
  | edger t =>
    refine ⟨_, exec_edger t s, ?_⟩
    cases hp : s.pendingLevel with
    | low => exact .of_submits (submittedPair_edger_in_sequence hp) (gatedRisingEdge_sameFrame hp)
    | high =>
      exact .of_submits_none (submittedPair_edger_sequence_error hp) nofun nofun
        (whenEnabled_sameFrame (risingEdge_sameFrame_of_sequence_error hp))

/- What a known effect says of `detected`. -/

/-- An operation that completes a frame leaves that frame in DecodedFrame, whatever stood there. -/
theorem FrameEffect.holdsFrame {W : Nat} {b c : Block} {i : Instr} {value : BitVec Config.N_BITS}
    (he : FrameEffect W b i c) (hv : CompletesFrame W b i value) : HoldsFrame value c := by
  cases he with
  | completed v hv' holds => rwa [hv.value_unique hv']
  | initialised isInit => subst isInit; exact absurd hv (not_completesFrame_of_submits_none rfl value)
  | acknowledged isClrdet => subst isClrdet; exact absurd hv (not_completesFrame_of_submits_none rfl value)
  | kept noFrame => exact absurd hv (noFrame value)

/-- `detected` is set by frame completion only. -/
theorem FrameEffect.completes_of_set {W : Nat} {b c : Block} {i : Instr} (he : FrameEffect W b i c)
    (hb : b.detected = false) (hc : c.detected = true) : ∃ value, CompletesFrame W b i value := by
  cases he with
  | completed value completes => exact ⟨value, completes⟩
  | initialised _ _ _ detected => simp [detected] at hc
  | acknowledged _ _ _ detected => simp [detected] at hc
  | kept _ _ _ same => simp [same.detected, hb] at hc

/-- Among the operations, `detected` is cleared by `CLRDET` and `INIT` only. -/
theorem FrameEffect.clears_of_cleared {W : Nat} {b c : Block} {i : Instr} (he : FrameEffect W b i c)
    (hb : b.detected = true) (hc : c.detected = false) : i = .clrdet ∨ i = .init := by
  cases he with
  | completed _ _ holds => simp [holds.detected] at hc
  | initialised isInit => exact .inr isInit
  | acknowledged isClrdet => exact .inl isClrdet
  | kept _ _ _ same => simp [same.detected, hb] at hc

/-- `CLRDET` and `INIT` leave `detected` at 0. -/
theorem FrameEffect.cleared {W : Nat} {b c : Block} {i : Instr} (he : FrameEffect W b i c)
    (hi : i = .clrdet ∨ i = .init) : c.detected = false := by
  cases he with
  | completed value completes =>
    obtain rfl | rfl := hi <;> exact absurd completes (not_completesFrame_of_submits_none rfl value)
  | initialised _ _ _ detected => exact detected
  | acknowledged _ _ _ detected => exact detected
  | kept _ notInit notClrdet => exact absurd hi (not_or.mpr ⟨notClrdet, notInit⟩)

/-- Settles O15: by the kind of event, and for a command by the effect of its operation on DecodedFrame. -/
theorem detectedChangesOnlyAsItsRuleSays : Obligations.DetectedChangesOnlyAsItsRuleSays := by
  intro s
  rcases hev : s.events with _ | ⟨_ | w, rest⟩
  case nil =>
    refine ⟨s, step_eq_of_nil hev, fun hb hc => ?_, nofun, fun hb hc => ?_, nofun, nofun⟩
    all_goals simp [hb] at hc
  case cons.hardwareReset =>
    exact ⟨_, step_eq_of_reset hev, nofun, nofun, fun _ _ => .inl ⟨rest, rfl⟩, nofun, fun _ _ => rfl⟩
  case cons.command w =>
    obtain ⟨t, ht, he⟩ := exec_frameEffect (decode s.W w) { s with events := rest }
    refine ⟨t, (step_eq_of_command hev).trans ht, fun hb hc => ?_, ?_, fun hb hc => ?_, ?_, nofun⟩
    · obtain ⟨value, hv⟩ := he.completes_of_set hb hc
      exact ⟨w, rest, value, rfl, hv⟩
    · rintro _ _ value ⟨rfl, rfl⟩ hv
      obtain ⟨detected, address, key⟩ := he.holdsFrame hv
      exact ⟨detected, address, key⟩
    · exact .inr ⟨w, rest, rfl, he.clears_of_cleared hb hc⟩
    · rintro _ _ ⟨rfl, rfl⟩ hi
      exact he.cleared hi

end Sys2Proof.Machine
end

section
/-! PROOFS. Which agent's operations write which elements (20_memory.md R51), and that reading writes none (R47). -/

namespace Sys2Proof.Machine

/-- `enabled`, DecoderState and the front end are the same in both blocks: everything but DecodedFrame. -/
structure SameOutsideFrame (b c : Block) : Prop where
  enabled : c.enabled = b.enabled
  bitIndex : c.bitIndex = b.bitIndex
  accumulator : c.accumulator = b.accumulator
  lastEdgeTicks : c.lastEdgeTicks = b.lastEdgeTicks
  pendingLevel : c.pendingLevel = b.pendingLevel
  lastHighTicks : c.lastHighTicks = b.lastHighTicks
  lastLowTicks : c.lastLowTicks = b.lastLowTicks

theorem SameOutsideFrame.refl (b : Block) : SameOutsideFrame b b := ⟨rfl, rfl, rfl, rfl, rfl, rfl, rfl⟩

theorem clearDetected_sameOutsideFrame (b : Block) : SameOutsideFrame b (clearDetected b) :=
  ⟨rfl, rfl, rfl, rfl, rfl, rfl, rfl⟩

/- The roles (60_exceptions.md R146). -/

/-- The operations that neither the producer nor the host presents. -/
theorem eq_of_role_not_producer_not_host {i : Instr} (hprod : role i ≠ some .producer) (hhost : role i ≠ some .host) :
    i = .reserved ∨ i = .readframe ∨ i = .clrdet := by
  cases i with
  | reserved => exact .inl rfl
  | readframe => exact .inr (.inl rfl)
  | clrdet => exact .inr (.inr rfl)
  | init | shutdown => exact absurd rfl hhost
  | pair | edger | edgef => exact absurd rfl hprod

/-- Only the producer's operations submit a pair. -/
theorem role_eq_producer_of_submits {W : Nat} {b : Block} {i : Instr} {p : Nat × Nat}
    (hsub : submittedPair W b i = some p) : role i = some .producer := by
  cases i with
  | pair | edger | edgef => rfl
  | reserved | init | shutdown | readframe | clrdet => cases hsub

/-- Only the producer's operations complete a frame. -/
theorem CompletesFrame.role_eq_producer {W : Nat} {b : Block} {i : Instr} {value : BitVec Config.N_BITS}
    (hv : CompletesFrame W b i value) : role i = some .producer := by
  obtain ⟨h, l, hsub, -⟩ := hv
  exact role_eq_producer_of_submits hsub

/- What the roles may write. -/

/-- Only the producer's and the host's operations write outside DecodedFrame. -/
theorem exec_sameOutsideFrame {i : Instr} {s t : State} (hprod : role i ≠ some .producer)
    (hhost : role i ≠ some .host) (ht : exec i s = .next t) : SameOutsideFrame s.toBlock t.toBlock := by
  obtain rfl | rfl | rfl := eq_of_role_not_producer_not_host hprod hhost
  · rw [exec_reserved] at ht
    cases ht
    exact .refl _
  · rw [exec_readframe] at ht
    cases ht
    exact .refl _
  · rw [exec_clrdet] at ht
    cases ht
    exact clearDetected_sameOutsideFrame _

/-- A consumer operation completes no frame and is not `INIT`, so `address` and `key` stay. -/
theorem FrameEffect.address_key_of_consumer {W : Nat} {b c : Block} {i : Instr} (he : FrameEffect W b i c)
    (hi : role i = some .consumer) : c.address = b.address ∧ c.key = b.key := by
  cases he with
  | completed value completes => simp [completes.role_eq_producer] at hi
  | initialised isInit => subst isInit; cases hi
  | acknowledged _ address key => exact ⟨address, key⟩
  | kept _ _ _ same => exact ⟨same.address, same.key⟩

/-- Settles O19: DecodedFrame by the effect of the operation on it, the other elements by the operation's role. -/
theorem eachElementHasItsWriters : Obligations.EachElementHasItsWriters := by
  intro i s
  obtain ⟨t, ht, he⟩ := exec_frameEffect i s
  refine ⟨t, ht, fun hprod hhost => ?_, fun hb hc => ?_, he.clears_of_cleared, he.address_key_of_consumer⟩
  · obtain ⟨enabled, bitIndex, accumulator, lastEdgeTicks, pendingLevel, lastHighTicks, lastLowTicks⟩ :=
      exec_sameOutsideFrame hprod hhost ht
    exact ⟨enabled, bitIndex, accumulator, lastEdgeTicks, pendingLevel, lastHighTicks, lastLowTicks⟩
  · obtain ⟨value, hv⟩ := he.completes_of_set hb hc
    exact hv.role_eq_producer

/- Reading. -/

/-- A word already put out is not read back: the next `READFRAME` puts out the word it would have put out before it. -/
theorem exec_readframe_putResult (w : ResultWord) (s : State) :
    exec .readframe (putResult w s) = .next (putResult (frameWord s.toBlock) (putResult w s)) := by
  rw [exec_readframe, putResult_toBlock]

/-- Settles O43: `READFRAME` writes the result port only, so the second puts out the same `FRAME`. -/
theorem readingHasNoSideEffect : Obligations.ReadingHasNoSideEffect := by
  intro s
  have twoWords : (putResult (frameWord s.toBlock) (putResult (frameWord s.toBlock) s)).results =
      s.results ++ [frameWord s.toBlock, frameWord s.toBlock] := by simp
  exact ⟨_, _, _, _, exec_readframe s, exec_readframe_putResult _ s, putResult_toBlock _ s,
    putResult_toBlock _ _, putResult_results _ s, twoWords, exec_clrdet s, clearDetected_detected _⟩

end Sys2Proof.Machine
end

section
/-! PROOFS. What `PAIR` does on an enabled block (41_pulse_pair.md): the validation (R92), the preamble test (R94, R95) and the pair that
completes a frame (R100, R101). -/

namespace Sys2Proof.Machine

/-- Two block operations that agree on this block do the same to the state. -/
theorem onBlock_congr {f g : Block → Block} {s : State} (h : f s.toBlock = g s.toBlock) : onBlock f s = onBlock g s := by
  simp only [onBlock, h]

/- `PAIR` on an enabled state, through the cases of the pair procedure. -/

/-- An enabled block runs the pair procedure on the operands of `PAIR`. -/
theorem exec_pair_of_enabled {s : State} (hen : s.enabled = true) (h l : Nat) :
    exec (.pair h l) s = .next (onBlock (pairProcedure h l) s) := by
  rw [exec_pair, onBlock_congr (whenEnabled_of_enabled hen)]

/-- An invalid pair aborts (41_pulse_pair.md R92, R93). -/
theorem exec_pair_of_invalid {s : State} {h l : Nat} (hen : s.enabled = true) (hv : pairValid h l = false) :
    exec (.pair h l) s = .next (onBlock abortToSeeking s) := by
  rw [exec_pair_of_enabled hen, onBlock_congr (pairProcedure_of_invalid hv)]

/-- A preamble starts a frame (41_pulse_pair.md R94). -/
theorem exec_pair_of_preamble {s : State} {h l : Nat} (hen : s.enabled = true) (hv : pairValid h l = true)
    (hs : s.bitIndex = seekingIndex) (hp : preambleMatch h l = true) :
    exec (.pair h l) s = .next (onBlock startCollecting s) := by
  rw [exec_pair_of_enabled hen, onBlock_congr (pairProcedure_of_preamble hv hs hp)]

/-- A valid pair that is no preamble leaves a seeking block as it is (41_pulse_pair.md R95). -/
theorem exec_pair_of_noMatch {s : State} {h l : Nat} (hen : s.enabled = true) (hv : pairValid h l = true)
    (hs : s.bitIndex = seekingIndex) (hp : preambleMatch h l = false) : exec (.pair h l) s = .next s := by
  rw [exec_pair_of_enabled hen, onBlock_eq_self (pairProcedure_of_noMatch hv hs hp)]

/-- The completing pair writes the completed value as a frame (41_pulse_pair.md R100). -/
theorem exec_pair_of_completes {s : State} {h l : Nat} (hc : PairCompletes s.toBlock h l) :
    exec (.pair h l) s = .next (onBlock (completeFrame (completedValue s.toBlock h l)) s) := by
  rw [exec_pair, onBlock_congr (gatedPair_of_completes hc)]

/- The slots of a frame as values of `bitIndex` (10_state.md R12). -/

/-- Different numbers below 64 are different values of `bitIndex`. -/
theorem slotIndex_ne {k : Nat} {index : BitVec 6} (hk : k < 64) (hne : k ≠ index.toNat) :
    BitVec.ofNat 6 k ≠ index := by
  rintro rfl
  rw [BitVec.toNat_ofNat, Nat.mod_eq_of_lt hk] at hne
  exact hne rfl

/-- No bit slot is the value of `bitIndex` while seeking. -/
theorem slotIndex_ne_seekingIndex {k : Nat} (hk : k ≤ 23) : BitVec.ofNat 6 k ≠ seekingIndex := by
  have hseek : seekingIndex.toNat = 63 := by decide
  exact slotIndex_ne (by omega) (by omega)

/-- The slots before slot 23 are not the last one. -/
theorem slotIndex_ne_lastIndex {k : Nat} (hk : k ≤ 22) : BitVec.ofNat 6 k ≠ lastIndex := by
  have hlast : lastIndex.toNat = 23 := by decide
  exact slotIndex_ne (by omega) (by omega)

/-- The valid pair of a slot `k ≤ 22` is stored as a data bit (41_pulse_pair.md R99). -/
theorem pairProcedure_of_slotIndex {h l k : Nat} {b : Block} (hv : pairValid h l = true) (hk : k ≤ 22)
    (hb : b.bitIndex = BitVec.ofNat 6 k) : pairProcedure h l b = storeBit (bitValue h l) b :=
  pairProcedure_of_slot hv (hb ▸ slotIndex_ne_seekingIndex (by omega)) (hb ▸ slotIndex_ne_lastIndex hk)

/-- The valid pair of a slot `k ≤ 22` advances to the next slot (41_pulse_pair.md R102). -/
theorem pairProcedure_bitIndex_of_slotIndex {h l k : Nat} {b : Block} (hv : pairValid h l = true) (hk : k ≤ 22)
    (hb : b.bitIndex = BitVec.ofNat 6 k) : (pairProcedure h l b).bitIndex = BitVec.ofNat 6 (k + 1) := by
  rw [pairProcedure_of_slotIndex hv hk hb, storeBit_bitIndex, hb, BitVec.ofNat_add k 1]
  rfl

/- The validation and the preamble test. -/

/-- The pair is invalid exactly when it fails the conjunction of the two exclusive bounds. -/
theorem pairValid_eq_false_iff_not_within (h l : Nat) :
    pairValid h l = false ↔ ¬(Config.MIN_PULSE_TICKS < h + l ∧ h + l < Config.MAX_PULSE_TICKS) := by
  rw [← pairValid_iff, Bool.not_eq_true]

/-- The pair fails the preamble test exactly when it fails the conjunction of the two inclusive bounds. -/
theorem preambleMatch_eq_false_iff (h l : Nat) :
    preambleMatch h l = false ↔ ¬(Config.PRE_MIN_MULT * h ≤ l ∧ l ≤ Config.PRE_MAX_MULT * h) := by
  rw [← preambleMatch_iff, Bool.not_eq_true]

/-- While seeking, a valid pair starts a frame exactly when it passes the preamble test (41_pulse_pair.md R94, R95). -/
theorem pairProcedure_bitIndex_eq_zero_iff {h l : Nat} {b : Block} (hv : pairValid h l = true)
    (hs : b.bitIndex = seekingIndex) : (pairProcedure h l b).bitIndex = 0 ↔ preambleMatch h l = true := by
  cases hp : preambleMatch h l with
  | true => rw [pairProcedure_of_preamble hv hs hp, startCollecting_bitIndex]; simp
  | false =>
    rw [pairProcedure_of_noMatch hv hs hp, hs]
    decide

/-- A valid pair without a HIGH part fails the preamble test: `l ≤ 40 * 0` leaves no duration to be valid (41_pulse_pair.md R94). -/
theorem preambleMatch_zero_eq_false {l : Nat} (hv : pairValid 0 l = true) : preambleMatch 0 l = false := by
  obtain ⟨hmin, -⟩ := (pairValid_iff 0 l).mp hv
  rw [preambleMatch_eq_false_iff]
  simp only [Config.MIN_PULSE_TICKS_eq] at hmin
  omega

/-- A valid pair of preamble shape, read as a data bit, is a 0 (41_pulse_pair.md R94): `3 * l ≥ 75 * h` reaches down to `2 * h` only
with both halves zero. -/
theorem bitValue_eq_false_of_preambleMatch {h l : Nat} (hv : pairValid h l = true) (hp : preambleMatch h l = true) :
    bitValue h l = false := by
  obtain ⟨hmin, -⟩ := (pairValid_iff h l).mp hv
  obtain ⟨hratio, -⟩ := (preambleMatch_iff h l).mp hp
  rw [← Bool.not_eq_true, bitValue_iff]
  simp only [Config.MIN_PULSE_TICKS_eq, Config.PRE_MIN_MULT_eq, Config.BIT_NUM_eq, Config.BIT_DEN_eq] at hmin hratio ⊢
  omega

/- The completed value. -/

/-- The completed value is the accumulator with the pair's bit in bit 0 (41_pulse_pair.md R100). -/
theorem PairCompletes.completedValue_eq {b : Block} {h l : Nat} (hc : PairCompletes b h l) :
    completedValue b h l = placeBit b.accumulator lastIndex (bitValue h l) := by
  rw [completedValue, hc.last]

/-- Placing a bit in the last slot puts it under the 23 upper bits of the accumulator. -/
theorem placeBit_last_eq_append (a : BitVec Config.N_BITS) (v : Bool) :
    placeBit a lastIndex v = a.extractLsb' 1 23 ++ BitVec.ofBool v := by
  change _ = (a.extractLsb' 1 23).concat v
  refine BitVec.eq_of_getLsbD_eq fun n (hn : n < 24) => ?_
  rw [placeBit_last_getLsbD, BitVec.getLsbD_concat]
  split
  · rfl
  · next hne =>
    have hupper : n - 1 < 23 := by omega
    have hbit : 1 + (n - 1) = n := by omega
    rw [BitVec.getLsbD_extractLsb', decide_eq_true hupper, Bool.true_and, hbit]

/-- The address over the key is the value they were split from (41_pulse_pair.md R100). -/
theorem address_append_key (v : BitVec Config.N_BITS) :
    v.extractLsb' Config.KEY_BITS Config.ADDR_BITS ++ v.extractLsb' 0 Config.KEY_BITS = v :=
  (BitVec.extractLsb'_append_extractLsb'_eq_extractLsb' rfl).trans BitVec.extractLsb'_eq_self

/-- What frame completion writes does not depend on what DecodedFrame held (41_pulse_pair.md R101). -/
theorem completeFrame_forgets_frame (v : BitVec Config.N_BITS) (s : State) (a : BitVec Config.ADDR_BITS)
    (k : BitVec Config.KEY_BITS) (d : Bool) :
    onBlock (completeFrame v) { s with address := a, key := k, detected := d } = onBlock (completeFrame v) s := rfl

/- The obligations. -/

/-- Settles O28: the valid pair fails the preamble test. -/
theorem preambleMismatchChangesNothing : Obligations.PreambleMismatchChangesNothing := by
  intro s h l hen hs hmin hmax hout
  refine exec_pair_of_noMatch hen ((pairValid_iff h l).mpr ⟨hmin, hmax⟩) hs ?_
  rwa [preambleMatch_eq_false_iff, not_and_or, not_le, not_le]

/-- Settles O31: the value is the completed one, which differs from the accumulator in bit 0 at most. -/
theorem lastBitCompletesTheFrame : Obligations.LastBitCompletesTheFrame := by
  intro s h l hen hlast hmin hmax
  have hc : PairCompletes s.toBlock h l := ⟨hen, hlast, (pairValid_iff h l).mpr ⟨hmin, hmax⟩⟩
  obtain ⟨hbit, hrest⟩ := (eq_placeBit_last_iff _ _ _).mp hc.completedValue_eq
  exact ⟨completedValue s.toBlock h l, hbit, hrest, exec_pair_of_completes hc⟩

/-- Settles O32: completion reads the accumulator and the pair only, so both states complete the same frame. -/
theorem frameWriteIsUnconditional : Obligations.FrameWriteIsUnconditional := by
  intro s h l a k d hen hlast hmin hmax
  have hc : PairCompletes s.toBlock h l := ⟨hen, hlast, (pairValid_iff h l).mpr ⟨hmin, hmax⟩⟩
  have hc' : PairCompletes { s.toBlock with address := a, key := k, detected := d } h l := ⟨hc.enabled, hc.last, hc.valid⟩
  refine ⟨_, exec_pair_of_completes hc, completeFrame_detected _ _, ?_, ?_⟩
  · calc _ = completedValue s.toBlock h l := address_append_key _
      _ = placeBit s.accumulator lastIndex (bitValue h l) := hc.completedValue_eq
      _ = _ := placeBit_last_eq_append _ _
  · rw [exec_pair_of_completes (s := { s with address := a, key := k, detected := d }) hc']
    exact congrArg _ (completeFrame_forgets_frame _ s a k d)

/-- Settles O25: an invalid pair aborts whatever its halves are; a valid one is interpreted by the slot. -/
theorem validationBoundsAreExclusive : Obligations.ValidationBoundsAreExclusive := by
  intro s h l hen
  refine ⟨_, exec_pair_of_enabled hen h l, fun hout => ?invalid, fun hin => ?valid⟩
  case invalid =>
    have hv := (pairValid_eq_false_iff_not_within h l).mpr hout
    rw [onBlock_congr (pairProcedure_of_invalid hv)]
    exact ⟨rfl, rfl, rfl, rfl, fun h' l' hout' =>
      exec_pair_of_invalid hen ((pairValid_eq_false_iff_not_within h' l').mpr hout')⟩
  case valid =>
    have hv := (pairValid_iff h l).mpr hin
    refine ⟨fun hs => ?_, fun k hk hb => pairProcedure_bitIndex_of_slotIndex hv hk hb, fun hlast => ?_⟩
    · exact (pairProcedure_bitIndex_eq_zero_iff hv hs).trans (preambleMatch_iff h l)
    · rw [onBlock_toBlock, pairProcedure_of_last hv hlast, completeFrame_detected]

/-- Settles O27: the seeking clauses by the outcome of the preamble test, the collecting clause by whether the slot is the last. -/
theorem preambleTestBoundsAreInclusive : Obligations.PreambleTestBoundsAreInclusive := by
  intro s h l hen hmin hmax
  have hv := (pairValid_iff h l).mpr ⟨hmin, hmax⟩
  refine ⟨fun hs hlow hhigh => ?_, fun hs hout => ?_, fun hs hzero => ?_, fun k hk hb hlow hhigh => ?_⟩
  · exact exec_pair_of_preamble hen hv hs ((preambleMatch_iff h l).mpr ⟨hlow, hhigh⟩)
  · exact exec_pair_of_noMatch hen hv hs ((preambleMatch_eq_false_iff h l).mpr hout)
  · subst hzero
    exact exec_pair_of_noMatch hen hv hs (preambleMatch_zero_eq_false hv)
  · have hbit := bitValue_eq_false_of_preambleMatch hv ((preambleMatch_iff h l).mpr ⟨hlow, hhigh⟩)
    refine ⟨hbit, _, exec_pair_of_enabled hen h l, fun hk' => pairProcedure_bitIndex_of_slotIndex hv hk' hb, ?_⟩
    rintro rfl
    rw [onBlock_toBlock, pairProcedure_of_last hv hb]
    exact ⟨completeFrame_detected _ _, completeFrame_bitIndex _ _⟩

end Sys2Proof.Machine
end

section
/-! PROOFS. The decoder and the encoder (30_encoding.md): an operation is its opcode and its two operand fields, and a word is its three
fields. -/

namespace Sys2Proof

/-- The operation that `op` selects, with its operands taken from the two fields where its format uses them (30_encoding.md R61, R62). -/
def operationOfFields (op : BitVec 3) (a b : Nat) : Instr :=
  match op.getLsbD 2, op.getLsbD 1, op.getLsbD 0 with
  | false, false, false => .reserved
  | false, false, true => .init
  | false, true, false => .shutdown
  | false, true, true => .pair a b
  | true, false, false => .readframe
  | true, false, true => .clrdet
  | true, true, false => .edger b
  | true, true, true => .edgef b

/-- The decoder looks at nothing but the three fields. -/
theorem decode_eq_operationOfFields (W w : Nat) :
    decode W w = operationOfFields (CommandWord.op W w) (CommandWord.fieldA W w) (CommandWord.fieldB W w) := rfl

/-- An operation is the one its own opcode and operand fields select. -/
theorem operationOfFields_self (i : Instr) : operationOfFields i.opcode i.operandA i.operandB = i := by
  cases i <;> simp [operationOfFields, Instr.opcode, Instr.operandA, Instr.operandB]

/-- Every opcode is the opcode of an operation (30_encoding.md R62). -/
theorem exists_opcode_eq (op : BitVec 3) : ∃ i : Instr, i.opcode = op := by
  have hall : ∀ op : BitVec 3, (operationOfFields op 0 0).opcode = op := by decide
  exact ⟨_, hall op⟩

/-- The operation selected by an operation's opcode takes each operand from the fields exactly where the format uses that field. -/
theorem operationOfFields_opcode (i : Instr) (a b : Nat) :
    (operationOfFields i.opcode a b).opcode = i.opcode ∧
    (operationOfFields i.opcode a b).format = i.format ∧
    (operationOfFields i.opcode a b).operandA = (if i.format = .P then a else 0) ∧
    (operationOfFields i.opcode a b).operandB = (if i.format = .N then 0 else b) := by
  cases i <;> simp [operationOfFields, Instr.opcode, Instr.format, Instr.operandA, Instr.operandB]

/-- The opcode and the operand fields of a decoded word (30_encoding.md R62, R64). -/
theorem decode_fields (W w : Nat) :
    (decode W w).opcode = CommandWord.op W w ∧
    (decode W w).operandA = (if (decode W w).format = .P then CommandWord.fieldA W w else 0) ∧
    (decode W w).operandB = (if (decode W w).format = .N then 0 else CommandWord.fieldB W w) := by
  obtain ⟨i, hi⟩ := exists_opcode_eq (CommandWord.op W w)
  rw [decode_eq_operationOfFields, ← hi]
  obtain ⟨opcode, format, operandA, operandB⟩ :=
    operationOfFields_opcode i (CommandWord.fieldA W w) (CommandWord.fieldB W w)
  rw [format]
  exact ⟨opcode, operandA, operandB⟩

/-- An operation is well formed when its two operand fields fit (30_encoding.md R63). -/
theorem wellFormed_of_operands_lt {W : Nat} {i : Instr} (ha : i.operandA < 2 ^ W) (hb : i.operandB < 2 ^ W) :
    i.wellFormed W = true := by
  cases i with
  | reserved | init | shutdown | readframe | clrdet => rfl
  | pair h l => exact Bool.and_eq_true_iff.mpr ⟨decide_eq_true ha, decide_eq_true hb⟩
  | edger t | edgef t => exact decide_eq_true hb

/-- Every word decodes to a well-formed operation: its operands are fields of the word, or not there. -/
theorem decode_wellFormed (W w : Nat) : (decode W w).wellFormed W = true := by
  obtain ⟨-, operandA, operandB⟩ := decode_fields W w
  refine wellFormed_of_operands_lt ?_ ?_
  · rw [operandA]; split
    · exact fieldA_lt W w
    · exact Nat.two_pow_pos W
  · rw [operandB]; split
    · exact Nat.two_pow_pos W
    · exact fieldB_lt W w

/-- The encoding of a well-formed operation has no bit beyond the `3 + 2W` of a command word (30_encoding.md R60). -/
theorem encode_fits {W : Nat} {i : Instr} (h : i.wellFormed W = true) : fitsCommandWord W (encode W i) = true := by
  have hop : i.opcode.toNat * (2 ^ W * 2 ^ W) ≤ 7 * (2 ^ W * 2 ^ W) := Nat.mul_le_mul_right _ (by omega)
  have hoperands : i.operandA * 2 ^ W + i.operandB < 2 ^ W * 2 ^ W :=
    calc i.operandA * 2 ^ W + i.operandB < i.operandA * 2 ^ W + 2 ^ W := Nat.add_lt_add_left (operandB_lt h) _
      _ = (i.operandA + 1) * 2 ^ W := (Nat.succ_mul _ _).symm
      _ ≤ 2 ^ W * 2 ^ W := Nat.mul_le_mul_right _ (operandA_lt h)
  have hencode : encode W i < 2 ^ (3 + 2 * W) := by
    rw [encode, two_pow_word, two_pow_operands]
    omega
  exact decide_eq_true hencode

/-- Decoding the command word of a well-formed operation gives it back. -/
theorem decode_encode {W : Nat} {i : Instr} (h : i.wellFormed W = true) : decode W (encode W i) = i := by
  rw [decode_eq_operationOfFields, encode_op h, encode_fieldA h, encode_fieldB h, operationOfFields_self]

/-- A word is canonical exactly when its two fields are the operand fields of its operation (30_encoding.md R64). -/
theorem isCanonical_iff (W w : Nat) :
    CommandWord.isCanonical W w = true ↔
      (decode W w).operandA = CommandWord.fieldA W w ∧ (decode W w).operandB = CommandWord.fieldB W w := by
  obtain ⟨-, operandA, operandB⟩ := decode_fields W w
  rw [operandA, operandB, CommandWord.isCanonical]
  cases (decode W w).format <;> simp [@eq_comm _ 0]

/-- Equal `op` fields, and equal operand fields where the format uses them, select the same operation. -/
theorem operationOfFields_congr (op : BitVec 3) {a a' b b' : Nat}
    (ha : (operationOfFields op a' b').format = .P → a = a') (hb : (operationOfFields op a' b').format ≠ .N → b = b') :
    operationOfFields op a b = operationOfFields op a' b' := by
  obtain ⟨i, rfl⟩ := exists_opcode_eq op
  rw [(operationOfFields_opcode i a' b').2.1] at ha hb
  cases i with
  | reserved | init | shutdown | readframe | clrdet => rfl
  | pair => rw [ha rfl, hb nofun]
  | edger | edgef => simp [operationOfFields, Instr.opcode, hb nofun]

/- The obligations. -/

/-- Settles O1: the encoding carries the opcode and the operands in its fields, and the decoder reads just these. -/
theorem decodeOfEncodeIsIdentity : Obligations.DecodeOfEncodeIsIdentity :=
  fun _ _ h => ⟨encode_fits h, decode_encode h⟩

/-- Settles O2: a word that fits is its fields, and the encoding of a decoded word has the operation's operand fields. -/
theorem encodeOfDecodeExactlyOnCanonicalWords : Obligations.EncodeOfDecodeExactlyOnCanonicalWords := by
  intro W w
  have hwf := decode_wellFormed W w
  rw [isCanonical_iff]
  constructor
  · intro hw
    have hA := encode_fieldA hwf
    have hB := encode_fieldB hwf
    have hfits := encode_fits hwf
    rw [hw] at hA hB hfits
    exact ⟨hfits, hA.symm, hB.symm⟩
  · rintro ⟨hfits, hA, hB⟩
    rw [encode, (decode_fields W w).1, hA, hB]
    exact (word_eq_fields hfits).symm

/-- Settles O3: an operand is a field of `W` bits. -/
theorem everyWordDecodesToAWellFormedOperation : Obligations.EveryWordDecodesToAWellFormedOperation :=
  decode_wellFormed

/-- Settles O4: the operation selected is a function of `op` and of the fields its format uses. -/
theorem ignoredFieldsCarryNothing : Obligations.IgnoredFieldsCarryNothing := by
  intro W v w hop hA hB
  rw [decode_eq_operationOfFields W v, hop]
  exact operationOfFields_congr _ hA hB

/-- Settles O5: each word is evaluated by the decoder. -/
theorem writtenOutWordsDecode : Obligations.WrittenOutWordsDecode := by
  unfold Obligations.WrittenOutWordsDecode
  refine ⟨?_, ?_, ?_, ?_, ?_, ?_, ?_, ?_, ?_, ?_, ?_⟩ <;> decide

/-- Settles O6: the operation writes nothing, and `op = 0` selects it whatever the other fields hold. -/
theorem reservedOpcodeChangesNothing : Obligations.ReservedOpcodeChangesNothing := by
  refine ⟨Machine.exec_reserved, fun W w hop => ?_⟩
  rw [decode_eq_operationOfFields, hop]
  rfl

end Sys2Proof
end

section
/-! PROOFS. An operation, an event and a stream of events as functions of the block, tied to `exec`, `step` and `Host.Core.run` by one
equation each; the statements about single operations and steps that are read off these equations. -/

namespace Sys2Proof.Machine

/-- What an operation does to the ten elements of a block of width `W`. -/
def operationEffect (W : Nat) : Instr → Block → Block
  | .reserved, b => b
  | .init, b => setEnabled true (clearFrame (clearDecoder b))
  | .shutdown, b => setEnabled false (clearDecoder b)
  | .pair h l, b => whenEnabled (pairProcedure h l) b
  | .readframe, b => b
  | .clrdet, b => clearDetected b
  | .edger t, b => whenEnabled (risingEdge W t) b
  | .edgef t, b => whenEnabled (fallingEdge W t) b

/-- The words an operation puts out (30_encoding.md R67). -/
def operationWords (i : Instr) (b : Block) : List ResultWord := if i = .readframe then [frameWord b] else []

/-- What an event does to the block. -/
def eventEffect (W : Nat) : Event → Block → Block
  | .command w, b => operationEffect W (decode W w) b
  | .hardwareReset, b => hardwareReset b

/-- The words put out in an event. -/
def eventWords (W : Nat) : Event → Block → List ResultWord
  | .command w, b => operationWords (decode W w) b
  | .hardwareReset, _ => []

/-- What a stream of events does to the block. -/
def streamEffect (W : Nat) : List Event → Block → Block
  | [], b => b
  | e :: es, b => streamEffect W es (eventEffect W e b)

/-- The words put out along a stream of events. -/
def streamWords (W : Nat) : List Event → Block → List ResultWord
  | [], _ => []
  | e :: es, b => eventWords W e b ++ streamWords W es (eventEffect W e b)

/-- The state with block `b`, the events `waiting` still presented and `words` newly put out. -/
def stateAfter (b : Block) (waiting : List Event) (words : List ResultWord) (s : State) : State where
  toBlock := b
  W := s.W
  events := waiting
  results := s.results ++ words

/- The equations. -/

@[simp] theorem stateAfter_toBlock (b : Block) (es : List Event) (ws : List ResultWord) (s : State) :
    (stateAfter b es ws s).toBlock = b := rfl
@[simp] theorem stateAfter_W (b : Block) (es : List Event) (ws : List ResultWord) (s : State) :
    (stateAfter b es ws s).W = s.W := rfl
@[simp] theorem stateAfter_events (b : Block) (es : List Event) (ws : List ResultWord) (s : State) :
    (stateAfter b es ws s).events = es := rfl
@[simp] theorem stateAfter_results (b : Block) (es : List Event) (ws : List ResultWord) (s : State) :
    (stateAfter b es ws s).results = s.results ++ ws := rfl

/-- With no word put out, only the block and the events are new. -/
theorem stateAfter_nil (b : Block) (es : List Event) (s : State) :
    stateAfter b es [] s = { s with toBlock := b, events := es } := by
  rw [stateAfter, List.append_nil]

/-- One after the other, the words add up. -/
theorem stateAfter_stateAfter (b c : Block) (es fs : List Event) (vs ws : List ResultWord) (s : State) :
    stateAfter c fs ws (stateAfter b es vs s) = stateAfter c fs (vs ++ ws) s := by
  simp [stateAfter]

theorem operationWords_of_ne_readframe {i : Instr} (hi : i ≠ .readframe) (b : Block) : operationWords i b = [] :=
  if_neg hi

/-- Every operation completes: its effect on the block, its words on the result port, and nothing else. -/
theorem exec_eq (i : Instr) (s : State) :
    exec i s = .next (stateAfter (operationEffect s.W i s.toBlock) s.events (operationWords i s.toBlock) s) := by
  by_cases hi : i = .readframe
  · subst hi; rfl
  · rw [operationWords_of_ne_readframe hi, stateAfter_nil]
    cases i with
    | readframe => exact absurd rfl hi
    | reserved | init | shutdown | clrdet | pair | edger | edgef => rfl

/-- A step on a pending event: its effect on the block, its words, and the others still presented. -/
theorem step_eq_of_event {s : State} {e : Event} {rest : List Event} (h : s.events = e :: rest) :
    step s = .next (stateAfter (eventEffect s.W e s.toBlock) rest (eventWords s.W e s.toBlock) s) := by
  cases e with
  | command w => rw [step_eq_of_command h, exec_eq]; rfl
  | hardwareReset => rw [step_eq_of_reset h, eventWords, stateAfter_nil]; rfl

/-- Every step answers a next state (60_exceptions.md R135): the idle step the same, any other what its event does. -/
theorem step_next (s : State) :
    (s.events = [] ∧ step s = .next s) ∨
    ∃ e rest, s.events = e :: rest ∧
      step s = .next (stateAfter (eventEffect s.W e s.toBlock) rest (eventWords s.W e s.toBlock) s) := by
  rcases hev : s.events with _ | ⟨e, rest⟩
  · exact .inl ⟨rfl, step_eq_of_nil hev⟩
  · exact .inr ⟨e, rest, rfl, step_eq_of_event hev⟩

/-- With nothing presented a run of any length stays where it is. -/
theorem core_run_of_nil {s : State} (h : s.events = []) (k : Nat) : Sys2Proof.core.run k s = .next s := by
  induction k with
  | zero => exact core_run_zero s
  | succ k ih => rw [core_run_succ (step_eq_of_nil h), ih]

/-- The empty stream leads nowhere. -/
theorem stateAfter_self (s : State) : stateAfter s.toBlock s.events [] s = s := by rw [stateAfter_nil]

/-- A run of `k` steps performs the first `k` events presented, or all of them. -/
theorem core_run_eq (k : Nat) (s : State) :
    Sys2Proof.core.run k s = .next
      (stateAfter (streamEffect s.W (s.events.take k) s.toBlock) (s.events.drop k)
        (streamWords s.W (s.events.take k) s.toBlock) s) := by
  induction k generalizing s with
  | zero => exact congrArg _ (stateAfter_self s).symm
  | succ k ih =>
    rcases hev : s.events with _ | ⟨e, rest⟩
    · have hself : stateAfter s.toBlock [] [] s = s := hev ▸ stateAfter_self s
      rw [core_run_of_nil hev, List.take_nil, List.drop_nil]
      exact congrArg _ hself.symm
    · rw [core_run_succ (step_eq_of_event hev), ih, stateAfter_stateAfter]
      rfl

/-- A run that performs just the events presented before the others. -/
theorem core_run_present (es : List Event) (s : State) :
    Sys2Proof.core.run es.length (present es s) =
      .next (stateAfter (streamEffect s.W es s.toBlock) s.events (streamWords s.W es s.toBlock) s) := by
  rw [core_run_eq, present_events, List.take_left, List.drop_left]
  rfl

/- Operations presented as their canonical words. -/

/-- What a list of operations does to the block. -/
def operationsEffect (W : Nat) : List Instr → Block → Block
  | [], b => b
  | i :: is, b => operationsEffect W is (operationEffect W i b)

/-- The canonical word of a well-formed operation performs that operation. -/
theorem eventEffect_encode {W : Nat} {i : Instr} (h : i.wellFormed W = true) (b : Block) :
    eventEffect W (.command (encode W i)) b = operationEffect W i b := by
  rw [eventEffect, decode_encode h]

/-- The canonical words of well-formed operations perform these operations. -/
theorem streamEffect_commandEvents {W : Nat} {is : List Instr} (h : ∀ i ∈ is, i.wellFormed W = true) (b : Block) :
    streamEffect W (commandEvents W is) b = operationsEffect W is b := by
  induction is generalizing b with
  | nil => rfl
  | cons i is ih =>
    rw [List.forall_mem_cons] at h
    calc streamEffect W (commandEvents W (i :: is)) b
        = streamEffect W (commandEvents W is) (eventEffect W (.command (encode W i)) b) := rfl
      _ = streamEffect W (commandEvents W is) (operationEffect W i b) := by rw [eventEffect_encode h.1]
      _ = operationsEffect W (i :: is) b := ih h.2 _

/-- Operations other than `READFRAME` put nothing out. -/
theorem streamWords_commandEvents {W : Nat} {is : List Instr} (h : ∀ i ∈ is, i.wellFormed W = true)
    (hread : ∀ i ∈ is, i ≠ .readframe) (b : Block) : streamWords W (commandEvents W is) b = [] := by
  induction is generalizing b with
  | nil => rfl
  | cons i is ih =>
    rw [List.forall_mem_cons] at h hread
    calc streamWords W (commandEvents W (i :: is)) b
        = operationWords (decode W (encode W i)) b ++ streamWords W (commandEvents W is) _ := rfl
      _ = [] := by rw [decode_encode h.1, operationWords_of_ne_readframe hread.1, ih h.2 hread.2, List.append_nil]

/-- A run over the canonical words of well-formed operations, no `READFRAME` among them. -/
theorem core_run_commandEvents {is : List Instr} {s : State} (h : ∀ i ∈ is, i.wellFormed s.W = true)
    (hread : ∀ i ∈ is, i ≠ .readframe) :
    Sys2Proof.core.run is.length (present (commandEvents s.W is) s) =
      .next (onBlock (operationsEffect s.W is) s) := by
  have hlen : is.length = (commandEvents s.W is).length := (List.length_map _).symm
  rw [hlen, core_run_present, streamEffect_commandEvents h, streamWords_commandEvents h hread, stateAfter_nil]
  rfl

/- The obligations about single steps and runs. -/

/-- Settles O10: a run is the effect of the events it takes off the stream. -/
theorem runsNeverStop : Obligations.RunsNeverStop :=
  fun k s => ⟨_, core_run_eq k s, rfl, rfl⟩

/-- Settles O7: the step on a pending command. -/
theorem stepPerformsTheDecodedOperation : Obligations.StepPerformsTheDecodedOperation := by
  rintro s w rest i hev rfl -
  exact step_eq_of_command hev

/-- Settles O8: the step with nothing presented. -/
theorem stepWaitsForCommands : Obligations.StepWaitsForCommands :=
  fun _ hev => step_eq_of_nil hev

/-- Settles O9: the step on a pending reset pulse, which leaves the reset column of R30. -/
theorem hardwareResetLeavesTheResetValues : Obligations.HardwareResetLeavesTheResetValues := by
  intro s rest hev
  rw [step_eq_of_reset hev]
  rfl

/-- Settles O20: `INIT` clears both parts of the block and sets `enabled`. -/
theorem initWritesAllTenElements : Obligations.InitWritesAllTenElements :=
  fun s => exec_init s

/-- Settles O21: `SHUTDOWN` clears the decoder and the front end and `enabled`. -/
theorem shutdownKeepsTheDecodedFrame : Obligations.ShutdownKeepsTheDecodedFrame :=
  fun s => exec_shutdown s

/-- Settles O22: `INIT` writes all ten elements and reads none, and no operation writes the width or the events. -/
theorem initForgetsTheOperationBefore : Obligations.InitForgetsTheOperationBefore :=
  fun i s => ⟨_, _, _, exec_eq i s, exec_init _, exec_init s, rfl, rfl, rfl⟩

/-- Settles O44: `CLRDET` writes `detected` only. -/
theorem clrdetClearsOnlyTheFlag : Obligations.ClrdetClearsOnlyTheFlag :=
  fun s => exec_clrdet s

/-- Settles O18: the words put out in an event are those of its operation, and only `READFRAME` has one. -/
theorem onlyReadframePutsOutAWord : Obligations.OnlyReadframePutsOutAWord := by
  intro s
  obtain ⟨hev, hstep⟩ | ⟨e, rest, hev, hstep⟩ := step_next s
  · exact ⟨s, hstep, fun w rest hcons => by simp [hev] at hcons, fun _ => rfl⟩
  · refine ⟨_, hstep, fun w rest' hcons hread => ?read, fun hnot => ?other⟩
    case read =>
      obtain ⟨rfl, rfl⟩ : e = .command w ∧ rest = rest' := by simpa [hev] using hcons
      rw [eventWords, hread]
      rfl
    case other =>
      have hnone : eventWords s.W e s.toBlock = [] := by
        cases e with
        | command w => exact operationWords_of_ne_readframe (hnot w rest hev) _
        | hardwareReset => rfl
      simp [hnone]

/-- Settles O23: the three producer operations stand behind the enable gate. -/
theorem disabledBlockIgnoresProducers : Obligations.DisabledBlockIgnoresProducers := by
  intro i s hrole hdis
  have hgate (f : Block → Block) : onBlock (whenEnabled f) s = s := onBlock_eq_self (whenEnabled_of_disabled hdis)
  cases i with
  | pair h l => rw [exec_pair, hgate]
  | edger t => rw [exec_edger, hgate]
  | edgef t => rw [exec_edgef, hgate]
  | reserved | init | shutdown | readframe | clrdet => cases hrole

/- Before the first `INIT`. -/

/-- No operation but `INIT` changes a block that holds the reset values (70_reset_and_hazards.md R163). -/
theorem operationEffect_reset {W : Nat} {i : Instr} (hi : i ≠ .init) : operationEffect W i Block.reset = Block.reset := by
  cases i with
  | init => exact absurd rfl hi
  | reserved | shutdown | pair | readframe | clrdet | edger | edgef => rfl

/-- No event but an `INIT` changes a block that holds the reset values. -/
theorem eventEffect_reset {W : Nat} {e : Event} (he : ∀ w, e = .command w → decode W w ≠ .init) :
    eventEffect W e Block.reset = Block.reset := by
  cases e with
  | command w => exact operationEffect_reset (he w rfl)
  | hardwareReset => rfl

/-- A block that holds the reset values puts out zero words only (10_state.md R23). -/
theorem eventWords_reset (W : Nat) (e : Event) : ∃ n, eventWords W e Block.reset = List.replicate n 0 := by
  have hzero : frameWord Block.reset = 0 := by decide
  cases e with
  | hardwareReset => exact ⟨0, rfl⟩
  | command w =>
    rw [eventWords, operationWords, hzero]
    split
    · exact ⟨1, rfl⟩
    · exact ⟨0, rfl⟩

/-- A stream without `INIT` leaves the reset values and puts out zero words only. -/
theorem stream_reset {W : Nat} {es : List Event} (hes : ∀ w, Event.command w ∈ es → decode W w ≠ .init) :
    streamEffect W es Block.reset = Block.reset ∧ ∃ n, streamWords W es Block.reset = List.replicate n 0 := by
  induction es with
  | nil => exact ⟨rfl, 0, rfl⟩
  | cons e es ih =>
    have he : eventEffect W e Block.reset = Block.reset :=
      eventEffect_reset fun w hw => hes w (hw ▸ List.mem_cons_self)
    obtain ⟨heffect, n, hwords⟩ := ih fun w hw => hes w (List.mem_cons_of_mem _ hw)
    obtain ⟨m, hword⟩ := eventWords_reset W e
    refine ⟨by rw [streamEffect, he, heffect], m + n, ?_⟩
    rw [streamWords, he, hword, hwords, List.replicate_append_replicate]

/-- Settles O24: the events that a run takes are among those presented, and hold no `INIT`. -/
theorem blockIsInertBeforeInit : Obligations.BlockIsInertBeforeInit := by
  intro k s t hreset hnoInit hrun
  rw [core_run_eq] at hrun
  cases hrun
  obtain ⟨heffect, n, hwords⟩ := stream_reset (W := s.W) (es := s.events.take k)
    fun w hw => hnoInit w (List.mem_of_mem_take hw)
  rw [stateAfter_toBlock, stateAfter_results, hreset]
  exact ⟨heffect, n, by rw [hwords]⟩

end Sys2Proof.Machine
end

section
/-! PROOFS. What an operation does to the decoder (`enabled`, `bitIndex`, `accumulator`), said once for every operation, and the statements
about `bitIndex`, `enabled`, `address` and `key` along a step (41_pulse_pair.md R102; 10_state.md R11, R29). -/

namespace Sys2Proof.Machine

/- The fields of `SameDecoder` by name. -/

theorem SameDecoder.enabled {b c : Block} (h : SameDecoder b c) : b.enabled = c.enabled := h.1
theorem SameDecoder.bitIndex {b c : Block} (h : SameDecoder b c) : b.bitIndex = c.bitIndex := h.2.1
theorem SameDecoder.accumulator {b c : Block} (h : SameDecoder b c) : b.accumulator = c.accumulator := h.2.2.1

/- The two errors and the pair procedure, as effects of an operation. -/

/-- An operation that submits a pair on an enabled block does to the decoder what the pair procedure does (43_edge_front_end.md R125). -/
theorem operationEffect_of_submits {W : Nat} {i : Instr} {b : Block} {h l : Nat} (hen : b.enabled = true)
    (hsub : submittedPair W b i = some (h, l)) : SameDecoder (operationEffect W i b) (pairProcedure h l b) := by
  cases i with
  | reserved | init | shutdown | readframe | clrdet | edgef => cases hsub
  | pair =>
    cases hsub
    rw [operationEffect, whenEnabled_of_enabled hen]
    exact ⟨rfl, rfl, rfl, rfl, rfl, rfl⟩
  | edger t =>
    cases hp : b.pendingLevel with
    | high =>
      rw [submittedPair_edger_sequence_error hp] at hsub
      cases hsub
    | low =>
      rw [submittedPair_edger_in_sequence hp] at hsub
      cases hsub
      rw [operationEffect, whenEnabled_of_enabled hen, risingEdge_in_sequence hp, pairProcedure_measureLow]
      exact ⟨rfl, rfl, rfl, rfl, rfl, rfl⟩

/-- An edge out of sequence on an enabled block does to the decoder what the abort does (43_edge_front_end.md R124). -/
theorem operationEffect_of_outOfSequence {W : Nat} {i : Instr} {b : Block} (hen : b.enabled = true)
    (hout : edgeOutOfSequence b i = true) : SameDecoder (operationEffect W i b) (abortToSeeking b) := by
  cases i with
  | reserved | init | shutdown | readframe | clrdet | pair => cases hout
  | edger t =>
    cases hp : b.pendingLevel with
    | low => simp [edgeOutOfSequence, sequenceError, hp] at hout
    | high =>
      rw [operationEffect, whenEnabled_of_enabled hen, risingEdge_sequence_error hp]
      exact ⟨rfl, rfl, rfl, rfl, rfl, rfl⟩
  | edgef t =>
    cases hp : b.pendingLevel with
    | high => simp [edgeOutOfSequence, sequenceError, hp] at hout
    | low =>
      rw [operationEffect, whenEnabled_of_enabled hen, fallingEdge_sequence_error hp]
      exact ⟨rfl, rfl, rfl, rfl, rfl, rfl⟩

/-- `enabled`, `bitIndex` and `accumulator` are the same in both blocks. -/
structure SameSlots (b c : Block) : Prop where
  enabled : c.enabled = b.enabled
  bitIndex : c.bitIndex = b.bitIndex
  accumulator : c.accumulator = b.accumulator

/-- The operation reaches neither the pair procedure nor the abort: the block is disabled, or the operation is neither an edge out of
sequence nor one that submits a pair. -/
def Quiet (W : Nat) (b : Block) (i : Instr) : Prop :=
  b.enabled = false ∨ (edgeOutOfSequence b i = false ∧ submittedPair W b i = none)

/-- Behind a closed gate nothing changes. -/
theorem whenEnabled_sameSlots {f : Block → Block} {b : Block} (hdis : b.enabled = false) :
    SameSlots b (whenEnabled f b) := by
  rw [whenEnabled_of_disabled hdis]
  exact ⟨rfl, rfl, rfl⟩

/-- A quiet operation other than `INIT` and `SHUTDOWN` leaves the decoder as it is. -/
theorem operationEffect_of_quiet {W : Nat} {i : Instr} {b : Block} (hinit : i ≠ .init) (hshut : i ≠ .shutdown)
    (hquiet : Quiet W b i) : SameSlots b (operationEffect W i b) := by
  cases i with
  | init => exact absurd rfl hinit
  | shutdown => exact absurd rfl hshut
  | reserved | readframe | clrdet => exact ⟨rfl, rfl, rfl⟩
  | pair =>
    obtain hdis | ⟨-, hnone⟩ := hquiet
    · exact whenEnabled_sameSlots hdis
    · cases hnone
  | edger t =>
    obtain hdis | ⟨hin, hnone⟩ := hquiet
    · exact whenEnabled_sameSlots hdis
    · cases hp : b.pendingLevel with
      | high => simp [edgeOutOfSequence, sequenceError, hp] at hin
      | low => rw [submittedPair_edger_in_sequence hp] at hnone; cases hnone
  | edgef t =>
    cases hen : b.enabled with
    | false => exact whenEnabled_sameSlots hen
    | true =>
      obtain hdis | ⟨hin, -⟩ := hquiet
      · simp [hen] at hdis
      cases hp : b.pendingLevel with
      | low => simp [edgeOutOfSequence, sequenceError, hp] at hin
      | high =>
        rw [operationEffect, whenEnabled_of_enabled hen, fallingEdge_in_sequence hp]
        exact ⟨rfl, rfl, rfl⟩

/-- What an operation that takes block `b` to block `c` does to the decoder. -/
inductive DecoderEffect (W : Nat) (b : Block) (i : Instr) (c : Block) : Prop
  /-- `INIT` (40_lifecycle.md R80). -/
  | initialised (isInit : i = .init) (enabled : c.enabled = true) (bitIndex : c.bitIndex = seekingIndex)
      (accumulator : c.accumulator = 0)
  /-- `SHUTDOWN` (40_lifecycle.md R82). -/
  | shutDown (isShutdown : i = .shutdown) (enabled : c.enabled = false) (bitIndex : c.bitIndex = seekingIndex)
      (accumulator : c.accumulator = 0)
  /-- A pair on an enabled block (41_pulse_pair.md R90). -/
  | submitted (h l : Nat) (enabled : b.enabled = true) (submits : submittedPair W b i = some (h, l))
      (same : SameDecoder c (pairProcedure h l b))
  /-- An edge out of sequence on an enabled block (43_edge_front_end.md R124). -/
  | aborted (enabled : b.enabled = true) (outOfSequence : edgeOutOfSequence b i = true)
      (same : SameDecoder c (abortToSeeking b))
  /-- Every other operation, and a producer operation on a disabled block. -/
  | kept (notInit : i ≠ .init) (notShutdown : i ≠ .shutdown) (quiet : Quiet W b i) (same : SameSlots b c)

/-- Everything any operation can do to the decoder. -/
theorem operationEffect_decoderEffect (W : Nat) (i : Instr) (b : Block) :
    DecoderEffect W b i (operationEffect W i b) := by
  by_cases hinit : i = .init
  · subst hinit; exact .initialised rfl rfl rfl rfl
  by_cases hshut : i = .shutdown
  · subst hshut; exact .shutDown rfl rfl rfl rfl
  cases hen : b.enabled with
  | false => exact .kept hinit hshut (.inl hen) (operationEffect_of_quiet hinit hshut (.inl hen))
  | true =>
    cases hout : edgeOutOfSequence b i with
    | true => exact .aborted hen hout (operationEffect_of_outOfSequence hen hout)
    | false =>
      rcases hsub : submittedPair W b i with _ | ⟨h, l⟩
      · exact .kept hinit hshut (.inr ⟨hout, hsub⟩) (operationEffect_of_quiet hinit hshut (.inr ⟨hout, hsub⟩))
      · exact .submitted h l hen hsub (operationEffect_of_submits hen hsub)

/-- Everything any operation can do to DecodedFrame, as an effect on the block. -/
theorem operationEffect_frameEffect (W : Nat) (i : Instr) (b : Block) :
    FrameEffect W b i (operationEffect W i b) := by
  obtain ⟨t, ht, he⟩ := exec_frameEffect i ⟨b, W, [], []⟩
  rw [exec_eq] at ht
  cases ht
  exact he

/- The slots (10_state.md R12, R13). -/

/-- I1: the block is seeking or `bitIndex` is a slot. -/
theorem indexInRange_iff (b : Block) : b.IndexInRange ↔ b.bitIndex = seekingIndex ∨ b.bitIndex.toNat ≤ 23 := by
  have hall : ∀ x : BitVec 6, (-1 ≤ x.toInt ∧ x.toInt ≤ 23) ↔ x = seekingIndex ∨ x.toNat ≤ 23 := by decide
  exact hall b.bitIndex

/-- A slot other than the last one is before it. -/
theorem slot_le_of_ne_lastIndex {x : BitVec 6} (hx : x.toNat ≤ 23) (hne : x ≠ lastIndex) : x.toNat ≤ 22 := by
  have hne' : x.toNat ≠ 23 := fun h => hne (BitVec.eq_of_toNat_eq h)
  omega

/-- `bitIndex` is the slot of its own number. -/
theorem bitIndex_eq_ofNat_toNat (x : BitVec 6) : x = BitVec.ofNat 6 x.toNat := by
  rw [BitVec.ofNat_toNat, BitVec.setWidth_eq]

/-- The slot after a slot before the last one. -/
theorem toNat_add_one_of_le {x : BitVec 6} (hx : x.toNat ≤ 22) : (x + 1).toNat = x.toNat + 1 := by
  rw [BitVec.toNat_add]
  exact Nat.mod_eq_of_lt (show x.toNat + 1 < 64 by omega)

/- The obligations about single steps. -/

/-- Settles O26: the operation does to the decoder what the pair procedure does, and the pair procedure aborts. -/
theorem outOfRangePairAborts : Obligations.OutOfRangePairAborts := by
  intro i s h l hen hsub hrange
  have hsame := operationEffect_of_submits hen hsub
  rw [pairProcedure_of_invalid ((pairValid_eq_false_iff h l).mpr hrange)] at hsame
  obtain ⟨enabled, bitIndex, accumulator, address, key, detected⟩ := hsame
  have hread : i ≠ .readframe := by rintro rfl; cases hsub
  refine ⟨_, exec_eq i s, bitIndex, accumulator, enabled, address, key, detected, rfl, ?_⟩
  rw [operationWords_of_ne_readframe hread, stateAfter_results, List.append_nil]

/-- Settles O13: by the kind of event, and for a command by the effect of its operation on the decoder. -/
theorem bitIndexFollowsTheTransitionTable : Obligations.BitIndexFollowsTheTransitionTable := by
  intro s
  rcases hev : s.events with _ | ⟨_ | w, rest⟩
  case nil => exact ⟨s, step_eq_of_nil hev, fun _ => rfl, nofun, nofun⟩
  case cons.hardwareReset => exact ⟨_, step_eq_of_event hev, nofun, fun _ _ => rfl, nofun⟩
  case cons.command w =>
    refine ⟨_, step_eq_of_event hev, nofun, nofun, ?_⟩
    rintro _ _ ⟨rfl, rfl⟩
    simp only [stateAfter_toBlock, eventEffect]
    refine ⟨fun hi => ?lifecycle, fun hen hout => ?outOfSequence, fun h l hen hsub => ?pair,
      fun hinit hshut hquiet => (operationEffect_of_quiet hinit hshut hquiet).bitIndex⟩
    case lifecycle => obtain hi | hi := hi <;> rw [hi] <;> rfl
    case outOfSequence => exact (operationEffect_of_outOfSequence hen hout).bitIndex
    case pair =>
      rw [(operationEffect_of_submits hen hsub).bitIndex]
      refine ⟨fun hrange => ?_, fun hmin hmax => ?_⟩
      · rw [pairProcedure_of_invalid ((pairValid_eq_false_iff h l).mpr hrange)]
        rfl
      · have hv := (pairValid_iff h l).mpr ⟨hmin, hmax⟩
        refine ⟨fun hs hlow hhigh => ?_, fun hs hno => ?_, fun k hk hb => pairProcedure_bitIndex_of_slotIndex hv hk hb,
          fun hlast => ?_⟩
        · exact (pairProcedure_bitIndex_eq_zero_iff hv hs).mpr ((preambleMatch_iff h l).mpr ⟨hlow, hhigh⟩)
        · have hp : preambleMatch h l = false := by
            rwa [preambleMatch_eq_false_iff, not_and_or, not_le, not_le]
          rw [pairProcedure_of_noMatch hv hs hp]
          exact hs
        · rw [pairProcedure_of_last hv hlast]
          rfl

/-- What the pair procedure can do to `bitIndex` in a legal slot (41_pulse_pair.md R102). -/
theorem pairProcedure_bitIndex_cases (h l : Nat) {b : Block} (hb : b.IndexInRange) :
    (pairProcedure h l b).bitIndex = b.bitIndex ∨ (pairProcedure h l b).bitIndex = seekingIndex ∨
    (pairValid h l = true ∧
      ((b.bitIndex = seekingIndex ∧ preambleMatch h l = true ∧ pairProcedure h l b = startCollecting b) ∨
        b.bitIndex.toNat ≤ 22)) := by
  obtain ⟨-, e⟩ | ⟨hv, hs, hp, e⟩ | ⟨-, -, -, e⟩ | ⟨-, -, e⟩ | ⟨hv, hs, hl, -⟩ := pairProcedure_cases h l b
  · rw [e]; exact .inr (.inl rfl)
  · exact .inr (.inr ⟨hv, .inl ⟨hs, hp, e⟩⟩)
  · rw [e]; exact .inl rfl
  · rw [e]; exact .inr (.inl rfl)
  · have hslot := ((indexInRange_iff b).mp hb).resolve_left hs
    exact .inr (.inr ⟨hv, .inr (slot_le_of_ne_lastIndex hslot hl)⟩)

/-- Settles O14: only a submitted pair moves `bitIndex` to anything but -1, and the pair procedure moves it to 0 or to the next slot. -/
theorem onlyAPreambleStartsCollecting : Obligations.OnlyAPreambleStartsCollecting := by
  intro s t hrange hst
  obtain ⟨-, hstep⟩ | ⟨e, rest, hev, hstep⟩ := step_next s
  · cases hst.symm.trans hstep
    exact .inl rfl
  · cases hst.symm.trans hstep
    cases e with
    | hardwareReset => exact .inr (.inl rfl)
    | command w =>
      simp only [stateAfter_toBlock, eventEffect]
      cases operationEffect_decoderEffect s.W (decode s.W w) s.toBlock with
      | initialised _ _ bitIndex => exact .inr (.inl bitIndex)
      | shutDown _ _ bitIndex => exact .inr (.inl bitIndex)
      | aborted _ _ same => exact .inr (.inl same.bitIndex)
      | kept _ _ _ same => exact .inl same.bitIndex
      | submitted h l enabled submits same =>
        rw [same.bitIndex, same.accumulator]
        obtain hstay | hseek | ⟨hv, hmove⟩ := pairProcedure_bitIndex_cases h l hrange
        · exact .inl hstay
        · exact .inr (.inl hseek)
        · obtain ⟨hmin, hmax⟩ := (pairValid_iff h l).mp hv
          refine .inr (.inr ⟨w, rest, h, l, hev, submits, enabled, hmin, hmax, ?_⟩)
          obtain ⟨hs, hp, e⟩ | hslot := hmove
          · rw [e]
            exact .inl ⟨hs, rfl, rfl, (preambleMatch_iff h l).mp hp⟩
          · have hself := bitIndex_eq_ofNat_toNat s.bitIndex
            exact .inr ⟨_, hslot, hself, pairProcedure_bitIndex_of_slotIndex hv hslot hself⟩

/-- Settles O16: frame completion and `INIT` are the effects on DecodedFrame that write `address` and `key`. -/
theorem addressAndKeyChangeOnlyByCompletionOrReset : Obligations.AddressAndKeyChangeOnlyByCompletionOrReset := by
  intro s t hst hchange
  obtain ⟨-, hstep⟩ | ⟨e, rest, hev, hstep⟩ := step_next s
  · cases hst.symm.trans hstep
    simp at hchange
  · cases hst.symm.trans hstep
    cases e with
    | hardwareReset => exact .inr (.inr ⟨rest, hev⟩)
    | command w =>
      simp only [stateAfter_toBlock, eventEffect] at hchange
      cases operationEffect_frameEffect s.W (decode s.W w) s.toBlock with
      | completed value completes => exact .inl ⟨w, rest, value, hev, completes⟩
      | initialised isInit => exact .inr (.inl ⟨w, rest, hev, isInit⟩)
      | acknowledged _ address key => simp [address, key] at hchange
      | kept _ _ _ same => simp [same.address, same.key] at hchange

/-- Settles O17: the pair procedure and the abort keep `enabled`. -/
theorem enabledChangesOnlyByLifecycle : Obligations.EnabledChangesOnlyByLifecycle := by
  intro s t hst hchange
  obtain ⟨-, hstep⟩ | ⟨e, rest, hev, hstep⟩ := step_next s
  · cases hst.symm.trans hstep
    exact absurd rfl hchange
  · cases hst.symm.trans hstep
    cases e with
    | hardwareReset => exact .inr ⟨rfl, .inl ⟨rest, hev⟩⟩
    | command w =>
      simp only [stateAfter_toBlock, eventEffect] at hchange ⊢
      cases operationEffect_decoderEffect s.W (decode s.W w) s.toBlock with
      | initialised isInit enabled => exact .inl ⟨enabled, w, rest, hev, isInit⟩
      | shutDown isShutdown enabled => exact .inr ⟨enabled, .inr ⟨w, rest, hev, isShutdown⟩⟩
      | submitted h l _ _ same => exact absurd (same.enabled.trans (pairProcedure_frame h l _).1) hchange
      | aborted _ _ same => exact absurd same.enabled hchange
      | kept _ _ _ same => exact absurd same.enabled hchange

end Sys2Proof.Machine
end

section
/-! PROOFS. The invariants I1 to I4 and the register widths hold after reset and are kept by every step (10_state.md R29). -/

namespace Sys2Proof.Machine

/-- I1 to I3: the invariants on `bitIndex` and `accumulator` alone. -/
structure DecoderInv (b : Block) : Prop where
  indexInRange : b.IndexInRange
  seekingIsClear : b.SeekingIsClear
  unfilledSlotsClear : b.UnfilledSlotsClear

/- I1 to I3. -/

/-- They look at `bitIndex` and `accumulator` only. -/
theorem DecoderInv.congr {b c : Block} (hb : DecoderInv b) (hi : c.bitIndex = b.bitIndex)
    (ha : c.accumulator = b.accumulator) : DecoderInv c := by
  obtain ⟨hrange, hclear, hslots⟩ := hb
  refine ⟨?_, ?_, ?_⟩
  · rwa [Block.IndexInRange, hi]
  · rwa [Block.SeekingIsClear, hi, ha]
  · rwa [Block.UnfilledSlotsClear, hi, ha]

/-- A clear accumulator has no bit set in an unfilled slot, so only I1 is left to ask. -/
theorem decoderInv_of_clear {b : Block} (hrange : b.IndexInRange) (ha : b.accumulator = 0) : DecoderInv b :=
  ⟨hrange, fun _ => ha, fun i _ _ => by rw [ha]; exact BitVec.getLsbD_zero⟩

/-- A seeking block with a clear accumulator meets them. -/
theorem decoderInv_of_seeking {b : Block} (hi : b.bitIndex = seekingIndex) (ha : b.accumulator = 0) : DecoderInv b :=
  decoderInv_of_clear ((indexInRange_iff b).mpr (.inl hi)) ha

/-- Storing a bit in slot `k ≤ 22` leaves the slots from `k + 1` on clear (41_pulse_pair.md R99). -/
theorem DecoderInv.storeBit {b : Block} (hb : DecoderInv b) (v : Bool) (hs : b.bitIndex ≠ seekingIndex)
    (hl : b.bitIndex ≠ lastIndex) : DecoderInv (storeBit v b) := by
  have hslot := ((indexInRange_iff b).mp hb.indexInRange).resolve_left hs
  have hk := slot_le_of_ne_lastIndex hslot hl
  have hnext : (Machine.storeBit v b).bitIndex.toNat = b.bitIndex.toNat + 1 := toNat_add_one_of_le hk
  refine ⟨(indexInRange_iff _).mpr (.inr (by omega)), fun hseek => ?_, fun i hi hunfilled => ?_⟩
  · have h63 : seekingIndex.toNat = 63 := by decide
    rw [hseek] at hnext
    omega
  · rw [hnext, Config.EV_maxIndexData_eq] at hunfilled
    rw [storeBit_accumulator, placeBit_getLsbD _ _ _ _ hslot, if_neg (by omega)]
    exact hb.unfilledSlotsClear i hi (by rw [Config.EV_maxIndexData_eq]; omega)

/-- The pair procedure keeps I1 to I3 (41_pulse_pair.md R102). -/
theorem DecoderInv.pairProcedure {b : Block} (hb : DecoderInv b) (h l : Nat) : DecoderInv (pairProcedure h l b) := by
  obtain ⟨-, e⟩ | ⟨-, -, -, e⟩ | ⟨-, -, -, e⟩ | ⟨-, -, e⟩ | ⟨-, hs, hl, e⟩ := pairProcedure_cases h l b
  · rw [e]; exact decoderInv_of_seeking rfl rfl
  · rw [e]; exact decoderInv_of_clear ((indexInRange_iff _).mpr (.inr (Nat.zero_le 23))) rfl
  · rwa [e]
  · rw [e]; exact decoderInv_of_seeking rfl rfl
  · rw [e]; exact hb.storeBit _ hs hl

/-- Every operation keeps I1 to I3. -/
theorem DecoderEffect.decoderInv {W : Nat} {b c : Block} {i : Instr} (he : DecoderEffect W b i c) (hb : DecoderInv b) :
    DecoderInv c := by
  cases he with
  | initialised _ _ bitIndex accumulator => exact decoderInv_of_seeking bitIndex accumulator
  | shutDown _ _ bitIndex accumulator => exact decoderInv_of_seeking bitIndex accumulator
  | submitted h l _ _ same => exact (hb.pairProcedure h l).congr same.bitIndex same.accumulator
  | aborted _ _ same => exact decoderInv_of_seeking same.bitIndex same.accumulator
  | kept _ _ _ same => exact hb.congr same.bitIndex same.accumulator

/- The front end: I4 and the register widths. -/

/-- A rising edge writes the reading, the LOW duration and the level expected next, and keeps `enabled` (43_edge_front_end.md R125). -/
theorem risingEdge_frontEnd (W t : Nat) (b : Block) :
    (risingEdge W t b).enabled = b.enabled ∧ (risingEdge W t b).lastEdgeTicks = t ∧
    (risingEdge W t b).lastHighTicks = b.lastHighTicks ∧
    (risingEdge W t b).lastLowTicks = elapsed W t b.lastEdgeTicks := by
  cases hp : b.pendingLevel with
  | high => rw [risingEdge_sequence_error hp]; exact ⟨rfl, rfl, rfl, rfl⟩
  | low =>
    rw [risingEdge_in_sequence hp]
    obtain ⟨enabled, last, -, high, low⟩ :=
      pairProcedure_frame b.lastHighTicks (elapsed W t b.lastEdgeTicks) (measureLow W t b)
    exact ⟨enabled, last, high, low⟩

/-- A falling edge writes the reading, the HIGH duration and the level expected next, and keeps `enabled` (43_edge_front_end.md R123). -/
theorem fallingEdge_frontEnd (W t : Nat) (b : Block) :
    (fallingEdge W t b).enabled = b.enabled ∧ (fallingEdge W t b).lastEdgeTicks = t ∧
    (fallingEdge W t b).lastHighTicks = elapsed W t b.lastEdgeTicks ∧
    (fallingEdge W t b).lastLowTicks = b.lastLowTicks := by
  cases hp : b.pendingLevel with
  | low => rw [fallingEdge_sequence_error hp]; exact ⟨rfl, rfl, rfl, rfl⟩
  | high => rw [fallingEdge_in_sequence hp]; exact ⟨rfl, rfl, rfl, rfl⟩

/-- The gate keeps what the operation behind it keeps. -/
theorem whenEnabled_keeps {P : Block → Prop} {f : Block → Block} {b : Block} (hf : P (f b)) (hb : P b) :
    P (whenEnabled f b) := by
  cases hen : b.enabled with
  | false => rwa [whenEnabled_of_disabled hen]
  | true => rwa [whenEnabled_of_enabled hen]

/-- Behind the gate I4 is kept by an operation that keeps `enabled`: it runs on enabled blocks only, of which I4 asks nothing. -/
theorem whenEnabled_disabledIsClear {f : Block → Block} {b : Block} (hf : (f b).enabled = b.enabled)
    (hb : b.DisabledIsClear) : (whenEnabled f b).DisabledIsClear := by
  cases hen : b.enabled with
  | false => rwa [whenEnabled_of_disabled hen]
  | true =>
    rw [whenEnabled_of_enabled hen]
    intro hdis
    rw [hf, hen] at hdis
    cases hdis

/-- Every operation keeps I4. -/
theorem operationEffect_disabledIsClear (W : Nat) (i : Instr) {b : Block} (hb : b.DisabledIsClear) :
    (operationEffect W i b).DisabledIsClear := by
  cases i with
  | reserved | readframe | clrdet => exact hb
  | init => nofun
  | shutdown => exact fun _ => ⟨rfl, rfl, rfl, rfl, rfl, rfl⟩
  | pair h l => exact whenEnabled_disabledIsClear (pairProcedure_frame h l b).1 hb
  | edger t => exact whenEnabled_disabledIsClear (risingEdge_frontEnd W t b).1 hb
  | edgef t => exact whenEnabled_disabledIsClear (fallingEdge_frontEnd W t b).1 hb

/-- Every well-formed operation keeps the register widths: an operand fits, and so does a measured duration (43_edge_front_end.md R122). -/
theorem operationEffect_ticksFit {W : Nat} {i : Instr} {b : Block} (hi : i.wellFormed W = true) (hb : b.TicksFit W) :
    (operationEffect W i b).TicksFit W := by
  obtain ⟨hlast, hhigh, hlow⟩ := hb
  have hzero : 0 < 2 ^ W := Nat.two_pow_pos W
  cases i with
  | reserved | readframe | clrdet => exact ⟨hlast, hhigh, hlow⟩
  | init | shutdown => exact ⟨hzero, hzero, hzero⟩
  | pair h l =>
    obtain ⟨-, last, -, high, low⟩ := pairProcedure_frame h l b
    refine whenEnabled_keeps ?_ ⟨hlast, hhigh, hlow⟩
    rw [Block.TicksFit, last, high, low]
    exact ⟨hlast, hhigh, hlow⟩
  | edger t =>
    obtain ⟨-, last, high, low⟩ := risingEdge_frontEnd W t b
    refine whenEnabled_keeps ?_ ⟨hlast, hhigh, hlow⟩
    rw [Block.TicksFit, last, high, low]
    exact ⟨operandB_lt hi, hhigh, elapsed_lt W t _⟩
  | edgef t =>
    obtain ⟨-, last, high, low⟩ := fallingEdge_frontEnd W t b
    refine whenEnabled_keeps ?_ ⟨hlast, hhigh, hlow⟩
    rw [Block.TicksFit, last, high, low]
    exact ⟨operandB_lt hi, elapsed_lt W t _, hlow⟩

/- The invariant of a block and of a state. -/

/-- Every operation keeps I1 to I4. -/
theorem Block.Inv.operationEffect {b : Block} (hb : b.Inv) (W : Nat) (i : Instr) : (operationEffect W i b).Inv := by
  obtain ⟨hrange, hclear, hslots, hdis⟩ := hb
  obtain ⟨hrange', hclear', hslots'⟩ := (operationEffect_decoderEffect W i b).decoderInv ⟨hrange, hclear, hslots⟩
  exact ⟨hrange', hclear', hslots', operationEffect_disabledIsClear W i hdis⟩

/-- The reset values meet I1 to I4 (10_state.md R30). -/
theorem reset_inv : Block.reset.Inv := by
  obtain ⟨hrange, hclear, hslots⟩ := decoderInv_of_seeking (b := Block.reset) rfl rfl
  exact ⟨hrange, hclear, hslots, fun _ => ⟨rfl, rfl, rfl, rfl, rfl, rfl⟩⟩

/-- The reset values fit every width (10_state.md R30). -/
theorem reset_ticksFit (W : Nat) : Block.reset.TicksFit W :=
  ⟨Nat.two_pow_pos W, Nat.two_pow_pos W, Nat.two_pow_pos W⟩

/-- Every event keeps I1 to I4. -/
theorem Block.Inv.eventEffect {b : Block} (hb : b.Inv) (W : Nat) (e : Event) : (eventEffect W e b).Inv := by
  cases e with
  | command w => exact hb.operationEffect W (decode W w)
  | hardwareReset => exact reset_inv

/-- Every event keeps the register widths, because every word decodes to a well-formed operation. -/
theorem eventEffect_ticksFit {W : Nat} {b : Block} (hb : b.TicksFit W) (e : Event) : (eventEffect W e b).TicksFit W := by
  cases e with
  | command w => exact operationEffect_ticksFit (decode_wellFormed W w) hb
  | hardwareReset => exact reset_ticksFit W

/-- Settles O11: the reset values meet each invariant, at every width. -/
theorem resetMeetsTheInvariant : Obligations.ResetMeetsTheInvariant := by
  have hreset (W : Nat) (hW : Config.W_MIN ≤ W) : (State.resetAt W).Inv := ⟨hW, reset_ticksFit W, reset_inv⟩
  exact ⟨hreset, rfl, hreset _ (by decide)⟩

/-- Settles O12: I1 to I3 by the effect of the operation on the decoder, I4 by the enable gate, the widths by the measured durations. -/
theorem stepKeepsTheInvariant : Obligations.StepKeepsTheInvariant := by
  intro s t hs hst
  obtain ⟨-, hstep⟩ | ⟨e, rest, -, hstep⟩ := step_next s
  · cases hst.symm.trans hstep
    exact hs
  · cases hst.symm.trans hstep
    exact ⟨hs.widthLegal, eventEffect_ticksFit hs.ticksFit e, hs.block.eventEffect s.W e⟩

end Sys2Proof.Machine
end

section
/-! PROOFS. `PAIR` on an enabled block, continued (41_pulse_pair.md): where a data bit goes (R97 to R99), which pairs start a frame (R103),
that the front end is not looked at (R103 (f)), and saturated durations (70_reset_and_hazards.md R170). -/

namespace Sys2Proof.Machine

/- The data bit. -/

/-- A slot's number is read off `bitIndex`. -/
theorem slotIndex_toNat {k : Nat} (hk : k ≤ 23) : (BitVec.ofNat 6 k).toNat = k := by
  rw [BitVec.toNat_ofNat]
  exact Nat.mod_eq_of_lt (by omega)

/-- The bit placed in slot `k` is bit `23 - k`, and the others stay (41_pulse_pair.md R99). -/
theorem placeBit_getLsbD_of_slotIndex {k : Nat} (hk : k ≤ 23) (a : BitVec Config.N_BITS) (v : Bool) (n : Nat) :
    (placeBit a (BitVec.ofNat 6 k) v).getLsbD n = if n = 23 - k then v else a.getLsbD n := by
  have hslot := slotIndex_toNat hk
  rw [placeBit_getLsbD a _ v n (by omega), hslot]

/-- Where the bit's place is clear, placing it is the OR of the bit (41_pulse_pair.md R99). -/
theorem placeBit_eq_or {k : Nat} (hk : k ≤ 23) {a : BitVec Config.N_BITS} (ha : a.getLsbD (23 - k) = false) (v : Bool) :
    placeBit a (BitVec.ofNat 6 k) v = a ||| (BitVec.ofBool v).setWidth Config.N_BITS <<< (23 - k) := by
  refine BitVec.eq_of_getLsbD_eq fun n hn => ?_
  rw [placeBit_getLsbD_of_slotIndex hk, BitVec.getLsbD_or, BitVec.getLsbD_shiftLeft, BitVec.getLsbD_setWidth,
    BitVec.getLsbD_ofBool]
  rcases Nat.lt_trichotomy n (23 - k) with hlt | heq | hgt
  · simp [hlt, hlt.ne]
  · subst heq
    rw [if_pos rfl, ha, Bool.false_or]
    simp [hn]
  · have hne : n - (23 - k) ≠ 0 := by omega
    simp [hgt.ne', hne]

/-- The valid pair of slot `k ≤ 22` writes the accumulator and the slot, and nothing else (41_pulse_pair.md R99). -/
theorem exec_pair_of_slotIndex {s : State} {h l k : Nat} (hen : s.enabled = true) (hv : pairValid h l = true)
    (hk : k ≤ 22) (hb : s.bitIndex = BitVec.ofNat 6 k) :
    exec (.pair h l) s = .next
      { s with
        bitIndex := BitVec.ofNat 6 (k + 1)
        accumulator := placeBit s.accumulator (BitVec.ofNat 6 k) (bitValue h l) } := by
  have hstore : storeBit (bitValue h l) s.toBlock =
      { s.toBlock with
        bitIndex := BitVec.ofNat 6 (k + 1)
        accumulator := placeBit s.accumulator (BitVec.ofNat 6 k) (bitValue h l) } := by
    rw [storeBit, hb, BitVec.ofNat_add k 1]
    rfl
  rw [exec_pair_of_enabled hen, onBlock, pairProcedure_of_slotIndex hv hk hb, hstore]

/-- The classification over the rational numbers (41_pulse_pair.md R97, R98). -/
theorem bitValue_iff_three_halves (h l : Nat) : bitValue h l = true ↔ (3 / 2 : ℚ) * (l : ℚ) ≤ (h : ℚ) := by
  have hscale : (3 * l ≤ 2 * h) ↔ (3 : ℚ) * l ≤ 2 * h := by exact_mod_cast Iff.rfl
  rw [bitValue_iff, Config.BIT_NUM_eq, Config.BIT_DEN_eq, hscale]
  constructor <;> intro hle <;> linarith

/-- Settles O29: slot `k ≤ 22` places the bit in the accumulator, slot 23 completes a value whose bit 0 is `key[0]`. -/
theorem bitIsOneExactlyFromThreeHalves : Obligations.BitIsOneExactlyFromThreeHalves := by
  intro s h l k hen hk hb hmin hmax
  have hv := (pairValid_iff h l).mpr ⟨hmin, hmax⟩
  rw [← bitValue_iff_three_halves]
  by_cases hlast : k = 23
  · subst hlast
    have hc : PairCompletes s.toBlock h l := ⟨hen, hb, hv⟩
    refine ⟨_, exec_pair_of_completes hc, fun hk' => absurd hk' (by decide), fun _ => ?_⟩
    rw [onBlock_toBlock, completeFrame_key, hc.completedValue_eq, BitVec.getLsbD_extractLsb',
      decide_eq_true (by decide), Bool.true_and, placeBit_last_getLsbD, if_pos rfl]
  · refine ⟨_, exec_pair_of_slotIndex hen hv (by omega) hb, fun _ => ?_, fun hk' => absurd hk' hlast⟩
    rw [placeBit_getLsbD_of_slotIndex hk, if_pos rfl]

/-- Settles O30: the accumulator with the bit placed in slot `k`; under I3 that place is clear. -/
theorem bitGoesToItsPlace : Obligations.BitGoesToItsPlace := by
  intro s h l k hen hk hb hmin hmax
  have hv := (pairValid_iff h l).mpr ⟨hmin, hmax⟩
  have hslot := slotIndex_toNat (show k ≤ 23 by omega)
  refine ⟨_, exec_pair_of_slotIndex hen hv hk hb,
    placeBit_getLsbD_of_slotIndex (by omega) s.accumulator (bitValue h l), fun hclear => ?_⟩
  have hplace : s.accumulator.getLsbD (23 - k) = false :=
    hclear (23 - k) (show 23 - k < 24 by omega) (by rw [hb, hslot, Config.EV_maxIndexData_eq]; omega)
  rw [placeBit_eq_or (by omega) hplace, bitValue]
  split
  · next hbit => rw [decide_eq_true hbit]; rfl
  · next hbit => rw [decide_eq_false hbit]; rfl

/- The pairs that start a frame. -/

/-- From seeking, a pair leaves the seeking state exactly when it is valid and passes the preamble test (41_pulse_pair.md R102). -/
theorem pairProcedure_starts_iff {h l : Nat} {b : Block} (hs : b.bitIndex = seekingIndex) :
    (pairProcedure h l b).bitIndex ≠ seekingIndex ↔ pairValid h l = true ∧ preambleMatch h l = true := by
  cases hv : pairValid h l with
  | false => simp [pairProcedure_of_invalid hv]
  | true =>
    cases hp : preambleMatch h l with
    | false => simp [pairProcedure_of_noMatch hv hs hp, hs]
    | true =>
      have hzero : 0#6 ≠ seekingIndex := slotIndex_ne_seekingIndex (by decide)
      simp [pairProcedure_of_preamble hv hs hp, hzero]

/-- From seeking, a pair leads to slot 0 exactly when it leaves the seeking state. -/
theorem pairProcedure_slotZero_iff {h l : Nat} {b : Block} (hs : b.bitIndex = seekingIndex) :
    (pairProcedure h l b).bitIndex = 0 ↔ pairValid h l = true ∧ preambleMatch h l = true := by
  cases hv : pairValid h l with
  | false =>
    have hzero : seekingIndex ≠ 0#6 := (slotIndex_ne_seekingIndex (by decide)).symm
    simp [pairProcedure_of_invalid hv, hzero]
  | true => simpa using pairProcedure_bitIndex_eq_zero_iff hv hs

/-- The window of a starting pair's bounds, as plain numbers. -/
theorem starting_pair_iff (h l : Nat) :
    pairValid h l = true ∧ preambleMatch h l = true ↔ 450 < h + l ∧ h + l < 8500 ∧ 25 * h ≤ l ∧ l ≤ 40 * h := by
  rw [pairValid_iff, preambleMatch_iff, and_assoc]
  rfl

/-- Settles O34: the bounds of validation and preamble test together. -/
theorem preambleWindow : Obligations.PreambleWindow := by
  intro s h l hen hs
  refine ⟨_, exec_pair_of_enabled hen h l, fun hstart => ?_, fun h320 => ?_⟩
  · have hwindow := (starting_pair_iff h l).mp ((pairProcedure_starts_iff hs).mp hstart)
    omega
  · rw [onBlock_toBlock, pairProcedure_slotZero_iff hs, starting_pair_iff]
    omega

/- The front end is not looked at. -/

/-- The block with these front-end registers (10_state.md R15 to R18). -/
def withFrontEnd (last : Nat) (lv : Level) (hi lo : Nat) (b : Block) : Block :=
  { b with lastEdgeTicks := last, pendingLevel := lv, lastHighTicks := hi, lastLowTicks := lo }

/-- The pair procedure does not look at the front end (41_pulse_pair.md R103 (f)). -/
theorem pairProcedure_withFrontEnd (h l last : Nat) (lv : Level) (hi lo : Nat) (b : Block) :
    pairProcedure h l (withFrontEnd last lv hi lo b) = withFrontEnd last lv hi lo (pairProcedure h l b) := by
  obtain ⟨hv, e⟩ | ⟨hv, hs, hp, e⟩ | ⟨hv, hs, hp, e⟩ | ⟨hv, hl, e⟩ | ⟨hv, hs, hl, e⟩ := pairProcedure_cases h l b
  · rw [e, pairProcedure_of_invalid hv]; rfl
  · rw [e, pairProcedure_of_preamble (b := withFrontEnd last lv hi lo b) hv hs hp]; rfl
  · rw [e, pairProcedure_of_noMatch (b := withFrontEnd last lv hi lo b) hv hs hp]
  · rw [e, pairProcedure_of_last (b := withFrontEnd last lv hi lo b) hv hl]; rfl
  · rw [e, pairProcedure_of_slot (b := withFrontEnd last lv hi lo b) hv hs hl]; rfl

/-- Nor does the gated pair procedure. -/
theorem gatedPair_withFrontEnd (h l last : Nat) (lv : Level) (hi lo : Nat) (b : Block) :
    whenEnabled (pairProcedure h l) (withFrontEnd last lv hi lo b) =
      withFrontEnd last lv hi lo (whenEnabled (pairProcedure h l) b) := by
  cases hen : b.enabled with
  | false => rw [whenEnabled_of_disabled hen, whenEnabled_of_disabled (b := withFrontEnd last lv hi lo b) hen]
  | true =>
    rw [whenEnabled_of_enabled hen, whenEnabled_of_enabled (b := withFrontEnd last lv hi lo b) hen,
      pairProcedure_withFrontEnd]

/-- A pair never clears `detected` (10_state.md R21). -/
theorem gatedPair_detected (h l : Nat) {b : Block} (hd : b.detected = true) :
    (whenEnabled (pairProcedure h l) b).detected = true := by
  by_contra hne
  have he : FrameEffect 0 b (.pair h l) (whenEnabled (pairProcedure h l) b) := operationEffect_frameEffect 0 (.pair h l) b
  obtain hi | hi := he.clears_of_cleared hd (Bool.eq_false_of_not_eq_true hne) <;> cases hi

/-- Settles O33: the frame of the pair procedure behind the gate, and that it commutes with other front-end values. -/
theorem pairIsIndependentOfTheFrontEnd : Obligations.PairIsIndependentOfTheFrontEnd := by
  intro s h l last hi lo lv
  obtain ⟨enabled, lastEdge, pending, high, low⟩ := whenEnabled_keeps (b := s.toBlock)
    (P := fun c => c.enabled = s.enabled ∧ c.lastEdgeTicks = s.lastEdgeTicks ∧ c.pendingLevel = s.pendingLevel ∧
      c.lastHighTicks = s.lastHighTicks ∧ c.lastLowTicks = s.lastLowTicks)
    (pairProcedure_frame h l s.toBlock) ⟨rfl, rfl, rfl, rfl, rfl⟩
  refine ⟨_, exec_pair h l s, enabled, lastEdge, pending, high, low, rfl, rfl, gatedPair_detected h l, ?_⟩
  rw [exec_pair, onBlock]
  exact congrArg (fun b => Host.Outcome.next { s with toBlock := b })
    (gatedPair_withFrontEnd h l last lv hi lo s.toBlock)

/- Saturated durations. -/

/-- A duration beyond the operand is passed as the largest operand (70_reset_and_hazards.md R170). -/
theorem saturatedTicks_of_le {W d : Nat} (hd : 2 ^ W ≤ d) : saturatedTicks W d = 2 ^ W - 1 :=
  Nat.min_eq_right (by omega)

/-- Settles O39: at a legal width the largest operand alone reaches the upper bound of validation. -/
theorem saturatedDurationAborts : Obligations.SaturatedDurationAborts := by
  intro s d x hW hen hd
  have hmax : Config.MAX_PULSE_TICKS < 2 ^ s.W := Config.max_pulse_ticks_representable hW
  rw [saturatedTicks_of_le hd]
  refine ⟨by omega, exec_pair_of_invalid hen ?_, exec_pair_of_invalid hen ?_⟩
  · exact (pairValid_eq_false_iff _ _).mpr (.inr (by omega))
  · exact (pairValid_eq_false_iff _ _).mpr (.inr (by omega))

end Sys2Proof.Machine
end

section
/-! PROOFS. The word `READFRAME` puts out, bit by bit and as a number (10_state.md R23, 42_consumer.md), and the consumer's operations around
a completing pair (70_reset_and_hazards.md R169). -/

namespace Sys2Proof.Machine

/- The layout of `FRAME`. -/

/-- Three fields shifted to their places and joined are the fields side by side, by the field a bit lies in. -/
theorem shifted_fields_eq_append (d : BitVec 1) (a : BitVec 20) (k : BitVec 4) :
    d.setWidth 32 <<< 24 ||| a.setWidth 32 <<< 4 ||| k.setWidth 32 = 0#7 ++ (d ++ (a ++ k)) := by
  refine BitVec.eq_of_getLsbD_eq fun n hn => ?_
  have hfield : n < 4 ∨ (4 ≤ n ∧ n < 24) ∨ n = 24 ∨ 25 ≤ n := by omega
  obtain hkey | haddress | hdetected | hzeros := hfield <;> grind

/-- `FRAME` is zeros, `detected`, `address` and `key` side by side (10_state.md R23). -/
theorem frameWord_eq_append (b : Block) :
    frameWord b = 0#7 ++ (BitVec.ofBool b.detected ++ (b.address ++ b.key)) :=
  shifted_fields_eq_append _ b.address b.key

/-- The number of two fields side by side. -/
theorem toNat_append_eq_add {m n : Nat} (x : BitVec m) (y : BitVec n) :
    (x ++ y).toNat = x.toNat * 2 ^ n + y.toNat := by
  rw [BitVec.toNat_append, ← Nat.shiftLeft_add_eq_or_of_lt y.isLt, Nat.shiftLeft_eq]

/-- `FRAME` as a number: the flag at bit 24 over the 24-bit value (10_state.md R23). -/
theorem frameWord_toNat (b : Block) :
    (frameWord b).toNat = b.detected.toNat * 2 ^ 24 + (b.address ++ b.key).toNat := by
  rw [frameWord_eq_append, toNat_append_eq_add 0#7, toNat_append_eq_add (BitVec.ofBool b.detected), BitVec.toNat_ofBool]
  simp [Config.ADDR_BITS, Config.KEY_BITS]

/-- Settles O42: the fields of `FRAME`, read back from their places. -/
theorem readframePutsOutTheFrame : Obligations.ReadframePutsOutTheFrame := by
  intro s
  refine ⟨frameWord s.toBlock, exec_readframe s, ?_⟩
  rw [frameWord_eq_append]
  refine ⟨?key, ?address, ?detected, ?zeros⟩
  case key => ext n hn; grind
  case address => ext n hn; grind
  case detected => grind
  case zeros => ext n hn; grind

/- The completed value. -/

/-- The completed value is the accumulator's upper 23 bits over the pair's bit (41_pulse_pair.md R100). -/
theorem PairCompletes.completedValue_eq_append {b : Block} {h l : Nat} (hc : PairCompletes b h l) :
    completedValue b h l = b.accumulator.extractLsb' 1 23 ++ BitVec.ofBool (bitValue h l) :=
  hc.completedValue_eq.trans (placeBit_last_eq_append _ _)

/-- The completed value as a number. -/
theorem PairCompletes.completedValue_toNat {b : Block} {h l : Nat} (hc : PairCompletes b h l) :
    (completedValue b h l).toNat = 2 * (b.accumulator.toNat / 2) + (bitValue h l).toNat := by
  have hupper : b.accumulator.toNat / 2 < 2 ^ 23 := by
    have hacc : b.accumulator.toNat < 2 ^ 24 := b.accumulator.isLt
    omega
  rw [hc.completedValue_eq_append]
  refine (toNat_append_eq_add _ _).trans ?_
  rw [BitVec.extractLsb'_toNat, BitVec.toNat_ofBool, Nat.shiftRight_eq_div_pow, Nat.pow_one, Nat.mod_eq_of_lt hupper,
    Nat.mul_comm]

/-- Settles O45: the completed value stands under the flag. -/
theorem frameWordIsTheCompletedValue : Obligations.FrameWordIsTheCompletedValue := by
  intro s h l hen hlast hmin hmax
  have hc : PairCompletes s.toBlock h l := ⟨hen, hlast, (pairValid_iff h l).mpr ⟨hmin, hmax⟩⟩
  have hbit : (bitValue h l).toNat = if Config.BIT_NUM * l ≤ Config.BIT_DEN * h then 1 else 0 := by
    rw [bitValue]
    split
    · next hone => rw [decide_eq_true hone]; rfl
    · next hzero => rw [decide_eq_false hzero]; rfl
  refine ⟨_, _, _, exec_pair_of_completes hc, exec_readframe _, putResult_results _ _, ?_⟩
  rw [frameWord_toNat, onBlock_toBlock, completeFrame_detected, completeFrame_address, completeFrame_key,
    address_append_key, hc.completedValue_toNat, hbit, Bool.toNat_true, Nat.one_mul, Nat.add_assoc]

/-- Settles O46: neither `READFRAME` nor `CLRDET` touches what the completing pair reads, so both orders complete the same value, and the
later of the pair and `CLRDET` decides the flag. -/
theorem readThenClearRaceLosesTheFlag : Obligations.ReadThenClearRaceLosesTheFlag := by
  intro s h l hen hlast hmin hmax
  have hc : PairCompletes s.toBlock h l := ⟨hen, hlast, (pairValid_iff h l).mpr ⟨hmin, hmax⟩⟩
  have hcleared : PairCompletes (clearDetected s.toBlock) h l := ⟨hc.enabled, hc.last, hc.valid⟩
  have hread : (putResult (frameWord s.toBlock) s).toBlock = s.toBlock := putResult_toBlock _ s
  refine ⟨_, _, _, _, _, exec_readframe s, exec_pair_of_completes (hread ▸ hc), exec_clrdet _, exec_clrdet _,
    exec_pair_of_completes hcleared, rfl, rfl, rfl, rfl, ?_⟩
  calc _ = completedValue s.toBlock h l := address_append_key _
    _ = _ := hc.completedValue_eq_append

end Sys2Proof.Machine
end

section
/-! PROOFS. The edge front end (43_edge_front_end.md): each edge in and out of sequence, two edges as one pair (R126), and whole streams of
edges as streams of pairs. -/

namespace Sys2Proof.Machine

/- One edge on an enabled block. -/

/-- A rising edge in sequence is the pair procedure on the two durations, and new front-end registers (43_edge_front_end.md R125). -/
theorem risingEdge_in_sequence_eq {W t : Nat} {b : Block} (hp : b.pendingLevel = .low) :
    risingEdge W t b =
      withFrontEnd t .high b.lastHighTicks (elapsed W t b.lastEdgeTicks)
        (pairProcedure b.lastHighTicks (elapsed W t b.lastEdgeTicks) b) := by
  have hmeasured : measureLow W t b =
      withFrontEnd t b.pendingLevel b.lastHighTicks (elapsed W t b.lastEdgeTicks) b := rfl
  rw [risingEdge_in_sequence hp, hmeasured, pairProcedure_withFrontEnd]
  rfl

/-- A rising edge out of sequence is the abort, and new front-end registers (43_edge_front_end.md R124). -/
theorem risingEdge_sequence_error_eq {W t : Nat} {b : Block} (hp : b.pendingLevel = .high) :
    risingEdge W t b =
      withFrontEnd t .high b.lastHighTicks (elapsed W t b.lastEdgeTicks) (abortToSeeking b) := by
  rw [risingEdge_sequence_error hp]
  rfl

/-- A falling edge in sequence is new front-end registers (43_edge_front_end.md R123). -/
theorem fallingEdge_in_sequence_eq {W t : Nat} {b : Block} (hp : b.pendingLevel = .high) :
    fallingEdge W t b = withFrontEnd t .low (elapsed W t b.lastEdgeTicks) b.lastLowTicks b := by
  rw [fallingEdge_in_sequence hp]
  rfl

/-- A falling edge out of sequence is the abort, and new front-end registers (43_edge_front_end.md R124). -/
theorem fallingEdge_sequence_error_eq {W t : Nat} {b : Block} (hp : b.pendingLevel = .low) :
    fallingEdge W t b = withFrontEnd t .low (elapsed W t b.lastEdgeTicks) b.lastLowTicks (abortToSeeking b) := by
  rw [fallingEdge_sequence_error hp]
  rfl

/-- An enabled block runs the falling edge. -/
theorem exec_edgef_of_enabled {s : State} (hen : s.enabled = true) (t : Nat) :
    exec (.edgef t) s = .next (onBlock (fallingEdge s.W t) s) := by
  rw [exec_edgef, onBlock_congr (whenEnabled_of_enabled hen)]

/-- An enabled block runs the rising edge. -/
theorem exec_edger_of_enabled {s : State} (hen : s.enabled = true) (t : Nat) :
    exec (.edger t) s = .next (onBlock (risingEdge s.W t) s) := by
  rw [exec_edger, onBlock_congr (whenEnabled_of_enabled hen)]

/-- Settles O47: the falling edge in sequence measures, and expects a LOW level next. -/
theorem fallingEdgeMeasuresTheHighLevel : Obligations.FallingEdgeMeasuresTheHighLevel := by
  intro s ticks hen hp
  refine ⟨elapsed s.W ticks s.lastEdgeTicks, elapsed_cast _ _ _, ?_⟩
  rw [exec_edgef_of_enabled hen, onBlock, fallingEdge_in_sequence hp]
  rfl

/-- Settles O48: the rising edge in sequence is the pair procedure, which keeps the last edge's reading, and new front-end registers. -/
theorem risingEdgeCompletesThePair : Obligations.RisingEdgeCompletesThePair := by
  intro s ticks hen hp
  refine ⟨elapsed s.W ticks s.lastEdgeTicks, _, elapsed_cast _ _ _, exec_pair_of_enabled hen _ _, ?_⟩
  obtain ⟨-, last, -⟩ := pairProcedure_frame s.lastHighTicks (elapsed s.W ticks s.lastEdgeTicks) s.toBlock
  rw [exec_edger_of_enabled hen, onBlock, risingEdge_in_sequence hp, pairProcedure_measureLow, measureLow, last]
  rfl

/-- Settles O49: an edge out of sequence measures and aborts. -/
theorem edgeOutOfSequenceAborts : Obligations.EdgeOutOfSequenceAborts := by
  intro s ticks hen
  refine ⟨elapsed s.W ticks s.lastEdgeTicks, elapsed_cast _ _ _, fun hp => ?_, fun hp => ?_⟩
  · rw [exec_edgef_of_enabled hen, onBlock, fallingEdge_sequence_error hp]
    rfl
  · rw [exec_edger_of_enabled hen, onBlock, risingEdge_sequence_error hp]
    rfl

/- Two edges. -/

/-- Other front-end registers do not concern the decoder. -/
theorem withFrontEnd_sameDecoder (last : Nat) (lv : Level) (hi lo : Nat) (b : Block) :
    SameDecoder (withFrontEnd last lv hi lo b) b := ⟨rfl, rfl, rfl, rfl, rfl, rfl⟩

/-- `PAIR` on an enabled block is the pair procedure. -/
theorem operationEffect_pair_of_enabled {W h l : Nat} {b : Block} (hen : b.enabled = true) :
    operationEffect W (.pair h l) b = pairProcedure h l b := by
  rw [operationEffect, whenEnabled_of_enabled hen]

/-- `EDGEF` in sequence on an enabled block sets the front-end registers (43_edge_front_end.md R123). -/
theorem operationEffect_edgef_in_sequence {W t : Nat} {b : Block} (hen : b.enabled = true) (hp : b.pendingLevel = .high) :
    operationEffect W (.edgef t) b = withFrontEnd t .low (elapsed W t b.lastEdgeTicks) b.lastLowTicks b := by
  rw [operationEffect, whenEnabled_of_enabled hen, fallingEdge_in_sequence_eq hp]

/-- `EDGER` in sequence on an enabled block runs the pair procedure and sets the front-end registers (43_edge_front_end.md R125). -/
theorem operationEffect_edger_in_sequence {W t : Nat} {b : Block} (hen : b.enabled = true) (hp : b.pendingLevel = .low) :
    operationEffect W (.edger t) b =
      withFrontEnd t .high b.lastHighTicks (elapsed W t b.lastEdgeTicks)
        (pairProcedure b.lastHighTicks (elapsed W t b.lastEdgeTicks) b) := by
  rw [operationEffect, whenEnabled_of_enabled hen, risingEdge_in_sequence_eq hp]

/-- A falling and a rising edge in sequence are one pair of the two durations, and new front-end registers (43_edge_front_end.md R126). -/
theorem operationEffect_edgef_edger {W t1 t2 : Nat} {b : Block} (hen : b.enabled = true) (hp : b.pendingLevel = .high) :
    operationEffect W (.edger t2) (operationEffect W (.edgef t1) b) =
      withFrontEnd t2 .high (elapsed W t1 b.lastEdgeTicks) (elapsed W t2 t1)
        (pairProcedure (elapsed W t1 b.lastEdgeTicks) (elapsed W t2 t1) b) := by
  rw [operationEffect_edgef_in_sequence hen hp, operationEffect_edger_in_sequence
    (b := withFrontEnd t1 .low (elapsed W t1 b.lastEdgeTicks) b.lastLowTicks b) hen rfl, pairProcedure_withFrontEnd]
  rfl

/-- Settles O50: the two edges' effect on the block, with the words put out and the events as they were. -/
theorem edgePairEqualsPair : Obligations.EdgePairEqualsPair := by
  intro s t1 t2 hen hp
  refine ⟨elapsed s.W t1 s.lastEdgeTicks, elapsed s.W t2 t1, _, _, _, elapsed_cast _ _ _, elapsed_cast _ _ _,
    exec_edgef t1 s, exec_edger t2 _, exec_pair_of_enabled hen _ _, ?_, ?_, rfl, rfl⟩
  all_goals
    have heffect := operationEffect_edgef_edger (W := s.W) (t1 := t1) (t2 := t2) hen hp
    simp only [operationEffect] at heffect
    simp only [onBlock_toBlock, onBlock_W, heffect]
  · exact withFrontEnd_sameDecoder _ _ _ _ _
  · rfl

/- Streams of pairs. -/

/-- Pairs presented as `PAIR` do not look at the front end. -/
theorem operationsEffect_pairsAsPair_withFrontEnd (W : Nat) (ps : List (Nat × Nat)) (last : Nat) (lv : Level) (hi lo : Nat)
    (b : Block) :
    operationsEffect W (pairsAsPair ps) (withFrontEnd last lv hi lo b) =
      withFrontEnd last lv hi lo (operationsEffect W (pairsAsPair ps) b) := by
  induction ps generalizing b with
  | nil => rfl
  | cons p ps ih =>
    rw [pairsAsPair, operationsEffect, operationEffect, gatedPair_withFrontEnd, ih]
    rfl

/-- The edges of a list of pairs do to the decoder what its pairs do (43_edge_front_end.md R126): the tick readings, taken modulo `2^W`,
measure the durations they were made from. -/
theorem operationsEffect_pairsAsEdges {W : Nat} {ps : List (Nat × Nat)} (hps : ∀ p ∈ ps, p.1 < 2 ^ W ∧ p.2 < 2 ^ W)
    {b : Block} (hen : b.enabled = true) (hp : b.pendingLevel = .high) :
    ∃ last hi lo, operationsEffect W (pairsAsEdges W b.lastEdgeTicks ps) b =
      withFrontEnd last .high hi lo (operationsEffect W (pairsAsPair ps) b) := by
  induction ps generalizing b with
  | nil =>
    refine ⟨b.lastEdgeTicks, b.lastHighTicks, b.lastLowTicks, ?_⟩
    rw [← hp]
    rfl
  | cons p ps ih =>
    obtain ⟨h, l⟩ := p
    obtain ⟨⟨hh, hl⟩, hrest⟩ := List.forall_mem_cons.mp hps
    have hpair : operationEffect W (.edger ((b.lastEdgeTicks + h + l) % 2 ^ W))
        (operationEffect W (.edgef ((b.lastEdgeTicks + h) % 2 ^ W)) b) =
        withFrontEnd ((b.lastEdgeTicks + h + l) % 2 ^ W) .high h l (operationEffect W (.pair h l) b) := by
      rw [operationEffect_edgef_edger hen hp, elapsed_add_mod _ hh, elapsed_mod_mod _ hl,
        operationEffect_pair_of_enabled hen]
    have hen' : (operationEffect W (.pair h l) b).enabled = true := by
      rw [operationEffect_pair_of_enabled hen, (pairProcedure_frame h l b).1, hen]
    obtain ⟨last, hi, lo, hstream⟩ := ih hrest
      (b := withFrontEnd ((b.lastEdgeTicks + h + l) % 2 ^ W) .high h l (operationEffect W (.pair h l) b)) hen' rfl
    refine ⟨last, hi, lo, ?_⟩
    calc operationsEffect W (pairsAsEdges W b.lastEdgeTicks ((h, l) :: ps)) b
        = operationsEffect W (pairsAsEdges W ((b.lastEdgeTicks + h + l) % 2 ^ W) ps)
            (operationEffect W (.edger ((b.lastEdgeTicks + h + l) % 2 ^ W))
              (operationEffect W (.edgef ((b.lastEdgeTicks + h) % 2 ^ W)) b)) := rfl
      _ = withFrontEnd last .high hi lo (operationsEffect W (pairsAsPair ps)
            (withFrontEnd ((b.lastEdgeTicks + h + l) % 2 ^ W) .high h l (operationEffect W (.pair h l) b))) := by
          rw [hpair]; exact hstream
      _ = withFrontEnd last .high hi lo (operationsEffect W (pairsAsPair ((h, l) :: ps)) b) := by
          rw [operationsEffect_pairsAsPair_withFrontEnd]; rfl

/-- The operations of a list of pairs: `PAIR` of one of its pairs each. -/
theorem mem_pairsAsPair {ps : List (Nat × Nat)} {i : Instr} (hi : i ∈ pairsAsPair ps) : ∃ p ∈ ps, i = .pair p.1 p.2 := by
  induction ps with
  | nil => cases hi
  | cons p ps ih =>
    obtain hi | hi := List.mem_cons.mp hi
    · exact ⟨p, List.mem_cons_self, hi⟩
    · obtain ⟨q, hq, rfl⟩ := ih hi
      exact ⟨q, List.mem_cons_of_mem _ hq, rfl⟩

/-- The operations of the edges of a list of pairs: edges whose tick readings fit. -/
theorem mem_pairsAsEdges {W last : Nat} {ps : List (Nat × Nat)} {i : Instr} (hi : i ∈ pairsAsEdges W last ps) :
    ∃ t < 2 ^ W, i = .edgef t ∨ i = .edger t := by
  have hfit (n : Nat) : n % 2 ^ W < 2 ^ W := Nat.mod_lt _ (Nat.two_pow_pos W)
  induction ps generalizing last with
  | nil => cases hi
  | cons p ps ih =>
    obtain hi | hi := List.mem_cons.mp hi
    · exact ⟨_, hfit _, .inl hi⟩
    · obtain hi | hi := List.mem_cons.mp hi
      · exact ⟨_, hfit _, .inr hi⟩
      · exact ih hi

theorem length_pairsAsPair (ps : List (Nat × Nat)) : (pairsAsPair ps).length = ps.length := by
  induction ps with
  | nil => rfl
  | cons p ps ih => rw [pairsAsPair, List.length_cons, ih, List.length_cons]

theorem length_pairsAsEdges (W last : Nat) (ps : List (Nat × Nat)) : (pairsAsEdges W last ps).length = 2 * ps.length := by
  induction ps generalizing last with
  | nil => rfl
  | cons p ps ih =>
    rw [pairsAsEdges, List.length_cons, List.length_cons, ih, List.length_cons]
    omega

/-- A run over a list of pairs presented as `PAIR`. -/
theorem core_run_pairsAsPair {ps : List (Nat × Nat)} {s : State} (hps : ∀ p ∈ ps, p.1 < 2 ^ s.W ∧ p.2 < 2 ^ s.W) :
    Sys2Proof.core.run ps.length (present (commandEvents s.W (pairsAsPair ps)) s) =
      .next (onBlock (operationsEffect s.W (pairsAsPair ps)) s) := by
  rw [← length_pairsAsPair ps]
  refine core_run_commandEvents (fun i hi => ?_) (fun i hi => ?_)
  · obtain ⟨p, hp, rfl⟩ := mem_pairsAsPair hi
    exact wellFormed_of_operands_lt (hps p hp).1 (hps p hp).2
  · obtain ⟨p, -, rfl⟩ := mem_pairsAsPair hi
    nofun

/-- A run over a list of pairs presented as edges. -/
theorem core_run_pairsAsEdges (ps : List (Nat × Nat)) (last : Nat) (s : State) :
    Sys2Proof.core.run (2 * ps.length) (present (commandEvents s.W (pairsAsEdges s.W last ps)) s) =
      .next (onBlock (operationsEffect s.W (pairsAsEdges s.W last ps)) s) := by
  rw [← length_pairsAsEdges s.W last ps]
  refine core_run_commandEvents (fun i hi => ?_) (fun i hi => ?_)
  · obtain ⟨t, ht, rfl | rfl⟩ := mem_pairsAsEdges hi
    · exact decide_eq_true ht
    · exact decide_eq_true ht
  · obtain ⟨t, -, rfl | rfl⟩ := mem_pairsAsEdges hi
    · nofun
    · nofun

/-- Settles O51: both runs are the effects of their operations, and those agree but for the front end. -/
theorem edgeStreamSimulatesPairStream : Obligations.EdgeStreamSimulatesPairStream := by
  intro ps s hen hp hps
  refine ⟨_, _, core_run_pairsAsEdges ps s.lastEdgeTicks s, core_run_pairsAsPair hps, ?_, ?_, rfl, rfl⟩
  all_goals
    obtain ⟨last, hi, lo, hstream⟩ := operationsEffect_pairsAsEdges hps hen hp
    rw [onBlock_toBlock, hstream]
  · exact withFrontEnd_sameDecoder _ _ _ _ _
  · rfl

end Sys2Proof.Machine
end

section
/-! PROOFS. What a whole stream of events can and cannot do: a frame takes more than 24 events (41_pulse_pair.md R102), the accumulator's
content while seeking is not observable (D6), and the consumer's operations touch nothing but `detected` (20_memory.md R51). The last two
compare two runs, through a relation between blocks that every event keeps. -/

namespace Sys2Proof.Machine

/- The length of a frame. -/

/-- No frame is detected, and fewer than `n` data bits are collected. -/
structure FewerBitsThan (n : Nat) (b : Block) : Prop where
  undetected : b.detected = false
  slot : b.bitIndex = seekingIndex ∨ b.bitIndex.toNat < n

/-- With at most 23 bits collected, no operation completes a frame. -/
theorem FewerBitsThan.not_completesFrame {n W : Nat} {b : Block} {i : Instr} (hb : FewerBitsThan n b) (hn : n ≤ 23)
    (value : BitVec Config.N_BITS) : ¬ CompletesFrame W b i value := by
  rintro ⟨-, -, -, -, hlast, -⟩
  obtain ⟨-, hslot⟩ := hb
  rw [hlast] at hslot
  have hne : lastIndex ≠ seekingIndex := by decide
  have h23 : lastIndex.toNat = 23 := by decide
  rcases hslot with h | h
  · exact hne h
  · omega

/-- A pair collects at most one bit (41_pulse_pair.md R102). -/
theorem pairProcedure_slot_lt (h l : Nat) {n : Nat} {b : Block} (hn : n ≤ 23)
    (hb : b.bitIndex = seekingIndex ∨ b.bitIndex.toNat < n) :
    (pairProcedure h l b).bitIndex = seekingIndex ∨ (pairProcedure h l b).bitIndex.toNat < n + 1 := by
  obtain ⟨-, e⟩ | ⟨-, -, -, e⟩ | ⟨-, hs, -, e⟩ | ⟨-, -, e⟩ | ⟨-, hs, -, e⟩ := pairProcedure_cases h l b <;> rw [e]
  · exact .inl rfl
  · exact .inr (Nat.succ_pos n)
  · exact .inl hs
  · exact .inl rfl
  · have hslot := hb.resolve_left hs
    rw [storeBit_bitIndex, toNat_add_one_of_le (by omega)]
    exact .inr (by omega)

/-- An operation collects at most one bit. -/
theorem DecoderEffect.slot_lt {W n : Nat} {b c : Block} {i : Instr} (he : DecoderEffect W b i c) (hn : n ≤ 23)
    (hb : b.bitIndex = seekingIndex ∨ b.bitIndex.toNat < n) :
    c.bitIndex = seekingIndex ∨ c.bitIndex.toNat < n + 1 := by
  cases he with
  | initialised _ _ bitIndex => exact .inl bitIndex
  | shutDown _ _ bitIndex => exact .inl bitIndex
  | submitted h l _ _ same => rw [same.bitIndex]; exact pairProcedure_slot_lt h l hn hb
  | aborted _ _ same => exact .inl same.bitIndex
  | kept _ _ _ same => rw [same.bitIndex]; exact hb.imp_right Nat.lt_succ_of_lt

/-- An event collects at most one bit, and with at most 23 of them collected detects no frame. -/
theorem FewerBitsThan.eventEffect {n : Nat} {b : Block} (hb : FewerBitsThan n b) (hn : n ≤ 23) (W : Nat) (e : Event) :
    FewerBitsThan (n + 1) (eventEffect W e b) := by
  cases e with
  | hardwareReset => exact ⟨rfl, .inl rfl⟩
  | command w =>
    refine ⟨?_, (operationEffect_decoderEffect W (decode W w) b).slot_lt hn hb.slot⟩
    by_contra hset
    obtain ⟨value, hv⟩ := (operationEffect_frameEffect W (decode W w) b).completes_of_set hb.undetected
      (Bool.eq_true_of_not_eq_false hset)
    exact hb.not_completesFrame hn value hv

/-- Along a stream, each event collects at most one bit. -/
theorem FewerBitsThan.streamEffect {n : Nat} {b : Block} (hb : FewerBitsThan n b) (W : Nat) (es : List Event)
    (hlen : n + es.length ≤ 24) : FewerBitsThan (n + es.length) (streamEffect W es b) := by
  induction es generalizing n b with
  | nil => exact hb
  | cons e es ih =>
    rw [List.length_cons] at hlen ⊢
    have hrest := ih (hb.eventEffect (by omega) W e) (by omega)
    rwa [Nat.add_assoc, Nat.add_comm 1] at hrest

/-- Settles O35: after 24 events at most 23 bits are collected. -/
theorem noTwentyFourEventsSetDetected : Obligations.NoTwentyFourEventsSetDetected := by
  intro k s t hs hd hk hrun
  rw [core_run_eq] at hrun
  cases hrun
  have hstart : FewerBitsThan 0 s.toBlock := ⟨hd, .inl hs⟩
  have hlen : 0 + (s.events.take k).length ≤ 24 := by
    rw [List.length_take]
    omega
  exact (hstart.streamEffect s.W _ hlen).undetected

/- Relations between two runs. -/

/-- A relation between blocks that agree in what gates the operations and in the front end, kept by each shared operation. -/
structure KeptByOps (R : Block → Block → Prop) : Prop where
  refl (b : Block) : R b b
  enabled {b c : Block} : R b c → c.enabled = b.enabled
  pendingLevel {b c : Block} : R b c → c.pendingLevel = b.pendingLevel
  ticks {b c : Block} : R b c →
    c.lastEdgeTicks = b.lastEdgeTicks ∧ c.lastHighTicks = b.lastHighTicks ∧ c.lastLowTicks = b.lastLowTicks
  frontEnd {b c : Block} (last : Nat) (lv : Level) (hi lo : Nat) :
    R b c → R (withFrontEnd last lv hi lo b) (withFrontEnd last lv hi lo c)
  pairProcedure {b c : Block} (h l : Nat) : R b c → R (pairProcedure h l b) (pairProcedure h l c)
  abort {b c : Block} : R b c → R (abortToSeeking b) (abortToSeeking c)
  shutdown {b c : Block} : R b c → R (setEnabled false (clearDecoder b)) (setEnabled false (clearDecoder c))
  clearDetected {b c : Block} : R b c → R (clearDetected b) (clearDetected c)

/-- A rising edge keeps such a relation. -/
theorem KeptByOps.risingEdge {R : Block → Block → Prop} (hR : KeptByOps R) {b c : Block} (h : R b c) (W t : Nat) :
    R (risingEdge W t b) (risingEdge W t c) := by
  have hlevel := hR.pendingLevel h
  obtain ⟨hlast, hhigh, -⟩ := hR.ticks h
  cases hp : b.pendingLevel with
  | high =>
    rw [risingEdge_sequence_error_eq hp, risingEdge_sequence_error_eq (hlevel.trans hp), hlast, hhigh]
    exact hR.frontEnd _ _ _ _ (hR.abort h)
  | low =>
    rw [risingEdge_in_sequence_eq hp, risingEdge_in_sequence_eq (hlevel.trans hp), hlast, hhigh]
    exact hR.frontEnd _ _ _ _ (hR.pairProcedure _ _ h)

/-- A falling edge keeps such a relation. -/
theorem KeptByOps.fallingEdge {R : Block → Block → Prop} (hR : KeptByOps R) {b c : Block} (h : R b c) (W t : Nat) :
    R (fallingEdge W t b) (fallingEdge W t c) := by
  have hlevel := hR.pendingLevel h
  obtain ⟨hlast, -, hlow⟩ := hR.ticks h
  cases hp : b.pendingLevel with
  | high =>
    rw [fallingEdge_in_sequence_eq hp, fallingEdge_in_sequence_eq (hlevel.trans hp), hlast, hlow]
    exact hR.frontEnd _ _ _ _ h
  | low =>
    rw [fallingEdge_sequence_error_eq hp, fallingEdge_sequence_error_eq (hlevel.trans hp), hlast, hlow]
    exact hR.frontEnd _ _ _ _ (hR.abort h)

/-- The enable gate keeps such a relation where the operation behind it does. -/
theorem KeptByOps.whenEnabled {R : Block → Block → Prop} (hR : KeptByOps R) {f : Block → Block} {b c : Block} (h : R b c)
    (hf : R (f b) (f c)) : R (whenEnabled f b) (whenEnabled f c) := by
  have henabled := hR.enabled h
  cases hen : b.enabled with
  | true => rwa [whenEnabled_of_enabled hen, whenEnabled_of_enabled (henabled.trans hen)]
  | false => rwa [whenEnabled_of_disabled hen, whenEnabled_of_disabled (henabled.trans hen)]

/-- Every operation keeps such a relation. -/
theorem KeptByOps.operationEffect {R : Block → Block → Prop} (hR : KeptByOps R) {b c : Block} (h : R b c) (W : Nat)
    (i : Instr) : R (operationEffect W i b) (operationEffect W i c) := by
  cases i with
  | init => exact hR.refl _
  | shutdown => exact hR.shutdown h
  | clrdet => exact hR.clearDetected h
  | reserved | readframe => exact h
  | pair hi lo => exact hR.whenEnabled h (hR.pairProcedure hi lo h)
  | edger t => exact hR.whenEnabled h (hR.risingEdge h W t)
  | edgef t => exact hR.whenEnabled h (hR.fallingEdge h W t)

/-- Every event keeps such a relation. -/
theorem KeptByOps.eventEffect {R : Block → Block → Prop} (hR : KeptByOps R) {b c : Block} (h : R b c) (W : Nat)
    (e : Event) : R (eventEffect W e b) (eventEffect W e c) := by
  cases e with
  | command w => exact hR.operationEffect h W (decode W w)
  | hardwareReset => exact hR.refl _

/- The accumulator while seeking. -/

/-- The block with this accumulator. -/
def withAccumulator (a : BitVec Config.N_BITS) (b : Block) : Block := { b with accumulator := a }

/-- The blocks are the same, or both seek and differ in the accumulator at most. -/
inductive SameButSeekingAccumulator (b : Block) : Block → Prop
  | same : SameButSeekingAccumulator b b
  | seeking (hs : b.bitIndex = seekingIndex) (a : BitVec Config.N_BITS) :
      SameButSeekingAccumulator b (withAccumulator a b)

/-- From seeking, the pair procedure does not look at the accumulator (41_pulse_pair.md R94, R95). -/
theorem pairProcedure_withAccumulator (h l : Nat) {b : Block} (hs : b.bitIndex = seekingIndex)
    (a : BitVec Config.N_BITS) :
    SameButSeekingAccumulator (pairProcedure h l b) (pairProcedure h l (withAccumulator a b)) := by
  cases hv : pairValid h l with
  | false =>
    rw [pairProcedure_of_invalid hv, pairProcedure_of_invalid hv]
    exact .same
  | true =>
    cases hp : preambleMatch h l with
    | true =>
      rw [pairProcedure_of_preamble hv hs hp, pairProcedure_of_preamble (b := withAccumulator a b) hv hs hp]
      exact .same
    | false =>
      rw [pairProcedure_of_noMatch hv hs hp, pairProcedure_of_noMatch (b := withAccumulator a b) hv hs hp]
      exact .seeking hs a

/-- No operation lets the accumulator of a seeking block be seen. -/
theorem sameButSeekingAccumulator_keptByOps : KeptByOps SameButSeekingAccumulator where
  refl _ := .same
  enabled h := by cases h <;> rfl
  pendingLevel h := by cases h <;> rfl
  ticks h := by cases h <;> exact ⟨rfl, rfl, rfl⟩
  frontEnd last lv high low h := by
    cases h with
    | same => exact .same
    | seeking hs a => exact .seeking (b := withFrontEnd last lv high low _) hs a
  pairProcedure hi lo h := by
    cases h with
    | same => exact .same
    | seeking hs a => exact pairProcedure_withAccumulator hi lo hs a
  abort h := by cases h <;> exact .same
  shutdown h := by cases h <;> exact .same
  clearDetected h := by
    cases h with
    | same => exact .same
    | seeking hs a => exact .seeking (b := clearDetected _) hs a

/-- `FRAME` does not show the accumulator (10_state.md R23). -/
theorem SameButSeekingAccumulator.eventWords {b c : Block} (h : SameButSeekingAccumulator b c) (W : Nat) (e : Event) :
    eventWords W e c = eventWords W e b := by
  cases h with
  | same => rfl
  | seeking hs a => cases e <;> rfl

/-- Every stream keeps the relation, and puts out the same words. -/
theorem SameButSeekingAccumulator.stream {b c : Block} (h : SameButSeekingAccumulator b c) (W : Nat) (es : List Event) :
    SameButSeekingAccumulator (streamEffect W es b) (streamEffect W es c) ∧ streamWords W es c = streamWords W es b := by
  induction es generalizing b c with
  | nil => exact ⟨h, rfl⟩
  | cons e es ih =>
    obtain ⟨heffect, hwords⟩ := ih (sameButSeekingAccumulator_keptByOps.eventEffect h W e)
    exact ⟨heffect, by rw [streamWords, streamWords, h.eventWords, hwords]⟩

/-- Settles O40: the two runs perform the same events, which keep the relation. -/
theorem seekingAccumulatorIsUnobservable : Obligations.SeekingAccumulatorIsUnobservable := by
  intro k s acc hs
  refine ⟨_, _, core_run_eq k s, core_run_eq k _, ?_⟩
  obtain ⟨heffect, hwords⟩ :=
    (SameButSeekingAccumulator.seeking (b := s.toBlock) hs acc).stream s.W (s.events.take k)
  simp only [withAccumulator] at heffect hwords
  rw [hwords]
  generalize streamEffect s.W (s.events.take k) { s.toBlock with accumulator := acc } = c at heffect
  cases heffect with
  | same => exact ⟨rfl, fun _ => rfl⟩
  | seeking hseek a => exact ⟨rfl, fun hne => absurd hseek hne⟩

/- The consumer's operations. -/

/-- The block with this value of `detected`. -/
def withDetected (d : Bool) (b : Block) : Block := { b with detected := d }

/-- The blocks differ in `detected` at most. -/
def SameButDetected (b c : Block) : Prop := ∃ d, c = withDetected d b

/-- The pair procedure does not look at `detected` (41_pulse_pair.md R101). -/
theorem pairProcedure_withDetected (h l : Nat) (d : Bool) (b : Block) :
    SameButDetected (pairProcedure h l b) (pairProcedure h l (withDetected d b)) := by
  obtain ⟨hv, e⟩ | ⟨hv, hs, hp, e⟩ | ⟨hv, hs, hp, e⟩ | ⟨hv, hl, e⟩ | ⟨hv, hs, hl, e⟩ := pairProcedure_cases h l b
  · rw [e, pairProcedure_of_invalid hv]; exact ⟨d, rfl⟩
  · rw [e, pairProcedure_of_preamble (b := withDetected d b) hv hs hp]; exact ⟨d, rfl⟩
  · rw [e, pairProcedure_of_noMatch (b := withDetected d b) hv hs hp]; exact ⟨d, rfl⟩
  · rw [e, pairProcedure_of_last (b := withDetected d b) hv hl]; exact ⟨true, rfl⟩
  · rw [e, pairProcedure_of_slot (b := withDetected d b) hv hs hl]; exact ⟨d, rfl⟩

/-- No operation looks at `detected` to write another element. -/
theorem sameButDetected_keptByOps : KeptByOps SameButDetected where
  refl b := ⟨b.detected, rfl⟩
  enabled := by rintro b _ ⟨d, rfl⟩; rfl
  pendingLevel := by rintro b _ ⟨d, rfl⟩; rfl
  ticks := by rintro b _ ⟨d, rfl⟩; exact ⟨rfl, rfl, rfl⟩
  frontEnd _ _ _ _ := by rintro ⟨d, rfl⟩; exact ⟨d, rfl⟩
  pairProcedure h l := by rintro ⟨d, rfl⟩; exact pairProcedure_withDetected h l d _
  abort := by rintro b _ ⟨d, rfl⟩; exact ⟨d, rfl⟩
  shutdown := by rintro b _ ⟨d, rfl⟩; exact ⟨d, rfl⟩
  clearDetected := by rintro b _ ⟨d, rfl⟩; exact ⟨false, rfl⟩

/-- A consumer operation, performed on one of the blocks only, keeps the relation (20_memory.md R51). -/
theorem SameButDetected.skip_consumer {b c : Block} (h : SameButDetected b c) {W : Nat} {e : Event}
    (he : notOfConsumer W e = false) : SameButDetected (eventEffect W e b) c := by
  obtain ⟨d, rfl⟩ := h
  cases e with
  | hardwareReset => cases he
  | command w =>
    have hrole : role (decode W w) = some .consumer := by simpa [notOfConsumer, eventOperation] using he
    rw [eventEffect]
    cases hi : decode W w with
    | readframe | clrdet => exact ⟨d, rfl⟩
    | reserved | init | shutdown | pair | edger | edgef => rw [hi] at hrole; cases hrole

/-- A stream and the same stream without the consumer's operations keep the relation. -/
theorem SameButDetected.stream_without_consumer {b c : Block} (h : SameButDetected b c) (W : Nat) (es : List Event) :
    SameButDetected (streamEffect W es b) (streamEffect W (es.filter (notOfConsumer W)) c) := by
  induction es generalizing b c with
  | nil => exact h
  | cons e es ih =>
    cases he : notOfConsumer W e with
    | true =>
      rw [List.filter_cons_of_pos he]
      exact ih (sameButDetected_keptByOps.eventEffect h W e)
    | false =>
      rw [List.filter_cons_of_neg (ne_true_of_eq_false he)]
      exact ih (h.skip_consumer he)

/-- Settles O41: each run performs its stream, and the two streams keep the relation. -/
theorem consumerCannotDisturbDecoding : Obligations.ConsumerCannotDisturbDecoding := by
  intro es s
  refine ⟨_, _, core_run_present es s, core_run_present _ s, ?_⟩
  obtain ⟨d, heq⟩ := (sameButDetected_keptByOps.refl s.toBlock).stream_without_consumer s.W es
  rw [heq]
  rfl

end Sys2Proof.Machine
end

section
/-! PROOFS. `SENDFRAME` (30_encoding.md R69, R70): its pairs, what they do to a collecting and to a seeking block, and for which `T` the
frame is decoded. -/

namespace Sys2Proof.Machine

/- The operations of `SENDFRAME`. -/

/-- The HIGH half of a bit of base duration `T`, `3 * T` for a 1 and `T` for a 0 (30_encoding.md R69). -/
def bitHigh (T : Nat) : Bool → Nat
  | true => 3 * T
  | false => T

/-- The LOW half of a bit of base duration `T`, `T` for a 1 and `3 * T` for a 0 (30_encoding.md R69). -/
def bitLow (T : Nat) : Bool → Nat
  | true => T
  | false => 3 * T

/-- `BIT1 T` or `BIT0 T` (30_encoding.md R69). -/
def bitInstr (T : Nat) (v : Bool) : Instr := .pair (bitHigh T v) (bitLow T v)

/-- The bits below position `i + 1`: the one at position `i`, then the rest. -/
theorem sendBits_succ (T : Nat) (value : BitVec Config.N_BITS) (i : Nat) :
    sendBits T value (i + 1) = bitInstr T (value.getLsbD i) :: sendBits T value i := by
  rw [sendBits]
  cases value.getLsbD i <;> rfl

/-- Two fields side by side, as the shifts that put them there. -/
theorem append_eq_shift_or {m n : Nat} (x : BitVec m) (y : BitVec n) :
    x ++ y = x.setWidth (m + n) <<< n ||| y.setWidth (m + n) := by
  rw [BitVec.append_def, BitVec.shiftLeftZeroExtend_eq, BitVec.setWidth'_eq]

/-- `SENDFRAME`: the preamble and the 24 bits of the address over the key. -/
theorem pseudoSendFrame_eq (T : Nat) (addr : BitVec Config.ADDR_BITS) (key : BitVec Config.KEY_BITS) :
    pseudoSendFrame T addr key = .pair T (31 * T) :: sendBits T (addr ++ key) Config.N_BITS := by
  rw [append_eq_shift_or]
  rfl

theorem length_sendBits (T : Nat) (value : BitVec Config.N_BITS) (n : Nat) : (sendBits T value n).length = n := by
  induction n with
  | zero => rfl
  | succ n ih => rw [sendBits_succ, List.length_cons, ih]

/-- `SENDFRAME` is 25 operations. -/
theorem length_pseudoSendFrame (T : Nat) (addr : BitVec Config.ADDR_BITS) (key : BitVec Config.KEY_BITS) :
    (pseudoSendFrame T addr key).length = 25 := by
  rw [pseudoSendFrame_eq, List.length_cons, length_sendBits]

theorem mem_sendBits {T n : Nat} {value : BitVec Config.N_BITS} {i : Instr} (hi : i ∈ sendBits T value n) :
    ∃ v, i = bitInstr T v := by
  induction n with
  | zero => cases hi
  | succ n ih =>
    rw [sendBits_succ] at hi
    obtain hi | hi := List.mem_cons.mp hi
    · exact ⟨_, hi⟩
    · exact ih hi

/-- Every operation of `SENDFRAME` is a `PAIR` of halves not above `31 * T`. -/
theorem mem_pseudoSendFrame {T : Nat} {addr : BitVec Config.ADDR_BITS} {key : BitVec Config.KEY_BITS} {i : Instr}
    (hi : i ∈ pseudoSendFrame T addr key) : ∃ h l, i = .pair h l ∧ h ≤ 31 * T ∧ l ≤ 31 * T := by
  rw [pseudoSendFrame_eq] at hi
  obtain rfl | hi := List.mem_cons.mp hi
  · exact ⟨T, 31 * T, rfl, by omega, by omega⟩
  · obtain ⟨v, rfl⟩ := mem_sendBits hi
    refine ⟨_, _, rfl, ?_, ?_⟩
    · cases v <;> simp only [bitHigh] <;> omega
    · cases v <;> simp only [bitLow] <;> omega

/-- Where the preamble fits the operand, the operations of `SENDFRAME` are well formed. -/
theorem pseudoSendFrame_wellFormed {W T : Nat} (hT : 31 * T < 2 ^ W) (addr : BitVec Config.ADDR_BITS)
    (key : BitVec Config.KEY_BITS) : ∀ i ∈ pseudoSendFrame T addr key, i.wellFormed W = true := by
  intro i hi
  obtain ⟨h, l, rfl, hh, hl⟩ := mem_pseudoSendFrame hi
  exact wellFormed_of_operands_lt (Nat.lt_of_le_of_lt hh hT) (Nat.lt_of_le_of_lt hl hT)

/-- None of them is a `READFRAME`. -/
theorem pseudoSendFrame_ne_readframe (T : Nat) (addr : BitVec Config.ADDR_BITS) (key : BitVec Config.KEY_BITS) :
    ∀ i ∈ pseudoSendFrame T addr key, i ≠ .readframe := by
  intro i hi
  obtain ⟨h, l, rfl, -⟩ := mem_pseudoSendFrame hi
  nofun

/-- A run over `SENDFRAME`. -/
theorem core_run_pseudoSendFrame {T : Nat} {s : State} (hT : 31 * T < 2 ^ s.W) (addr : BitVec Config.ADDR_BITS)
    (key : BitVec Config.KEY_BITS) :
    Sys2Proof.core.run 25 (present (commandEvents s.W (pseudoSendFrame T addr key)) s) =
      .next (onBlock (operationsEffect s.W (pseudoSendFrame T addr key)) s) := by
  rw [← length_pseudoSendFrame T addr key]
  exact core_run_commandEvents (pseudoSendFrame_wellFormed hT addr key) (pseudoSendFrame_ne_readframe T addr key)

/-- A run over one well-formed operation, no `READFRAME`, and `SENDFRAME`. -/
theorem core_run_cons_pseudoSendFrame {T : Nat} {i : Instr} {s : State} (hi : i.wellFormed s.W = true)
    (hread : i ≠ .readframe) (hT : 31 * T < 2 ^ s.W) (addr : BitVec Config.ADDR_BITS) (key : BitVec Config.KEY_BITS) :
    Sys2Proof.core.run 26 (present (commandEvents s.W (i :: pseudoSendFrame T addr key)) s) =
      .next (onBlock (fun b => operationsEffect s.W (pseudoSendFrame T addr key) (operationEffect s.W i b)) s) := by
  have hlen : 26 = (i :: pseudoSendFrame T addr key).length := by rw [List.length_cons, length_pseudoSendFrame]
  rw [hlen]
  exact core_run_commandEvents (List.forall_mem_cons.mpr ⟨hi, pseudoSendFrame_wellFormed hT addr key⟩)
    (List.forall_mem_cons.mpr ⟨hread, pseudoSendFrame_ne_readframe T addr key⟩)

/- The pairs of `SENDFRAME` under the tests of the data path. -/

/-- The pair of a bit lasts `4 * T` ticks. -/
theorem pairValid_bitInstr (T : Nat) (v : Bool) :
    pairValid (bitHigh T v) (bitLow T v) = true ↔ 113 ≤ T ∧ T ≤ 2124 := by
  rw [pairValid_iff, Config.MIN_PULSE_TICKS_eq, Config.MAX_PULSE_TICKS_eq]
  cases v <;> simp only [bitHigh, bitLow] <;> omega

/-- The pair of a bit is read back as that bit. -/
theorem bitValue_bitInstr {T : Nat} (hT : 0 < T) (v : Bool) :
    bitValue (bitHigh T v) (bitLow T v) = v := by
  cases v with
  | true =>
    rw [bitValue_iff, Config.BIT_NUM_eq, Config.BIT_DEN_eq, bitHigh, bitLow]
    omega
  | false =>
    rw [← Bool.not_eq_true, bitValue_iff, Config.BIT_NUM_eq, Config.BIT_DEN_eq, bitHigh, bitLow]
    omega

/-- The pair of a bit starts no frame. -/
theorem bitInstr_starts_nothing (T : Nat) (v : Bool) :
    ¬ (pairValid (bitHigh T v) (bitLow T v) = true ∧
      preambleMatch (bitHigh T v) (bitLow T v) = true) := by
  rw [starting_pair_iff]
  cases v <;> simp only [bitHigh, bitLow] <;> omega

/-- The preamble starts a frame exactly when its `32 * T` ticks are within the bounds. -/
theorem preamble_starts_iff (T : Nat) :
    pairValid T (31 * T) = true ∧ preambleMatch T (31 * T) = true ↔ 15 ≤ T ∧ T ≤ 265 := by
  rw [starting_pair_iff]
  omega

/- A collecting block. -/

/-- The bits of `value` for the slots before slot `k` are collected, and slot `k` is awaited. -/
structure Collected (value : BitVec Config.N_BITS) (k : Nat) (b : Block) : Prop where
  enabled : b.enabled = true
  slot : b.bitIndex = BitVec.ofNat 6 k
  filled : ∀ n, 24 - k ≤ n → b.accumulator.getLsbD n = value.getLsbD n

/-- After the preamble no slot is filled yet. -/
theorem startCollecting_collected (value : BitVec Config.N_BITS) {b : Block} (hen : b.enabled = true) :
    Collected value 0 (startCollecting b) := by
  refine ⟨hen, rfl, fun n (hn : 24 ≤ n) => ?_⟩
  rw [BitVec.getLsbD_of_ge _ n hn, BitVec.getLsbD_of_ge _ n hn]

/-- The pair of the bit for slot `k ≤ 22` fills the slot (41_pulse_pair.md R99). -/
theorem Collected.next {value : BitVec Config.N_BITS} {k T : Nat} {b : Block} (hb : Collected value k b) (hk : k ≤ 22)
    (hmin : 113 ≤ T) (hmax : T ≤ 265) (W : Nat) :
    Collected value (k + 1) (operationEffect W (bitInstr T (value.getLsbD (23 - k))) b) := by
  obtain ⟨hen, hslot, hfilled⟩ := hb
  have hv := (pairValid_bitInstr T (value.getLsbD (23 - k))).mpr ⟨hmin, by omega⟩
  rw [bitInstr, operationEffect_pair_of_enabled hen]
  refine ⟨(pairProcedure_frame _ _ b).1.trans hen, pairProcedure_bitIndex_of_slotIndex hv hk hslot, fun n hn => ?_⟩
  rw [pairProcedure_of_slotIndex hv hk hslot, storeBit_accumulator, hslot, placeBit_getLsbD_of_slotIndex (by omega),
    bitValue_bitInstr (by omega)]
  split
  · next heq => rw [heq]
  · next hne => exact hfilled n (by omega)

/-- A block that holds `value` as its frame and is ready for the next one. -/
structure FrameDone (value : BitVec Config.N_BITS) (b : Block) : Prop where
  frame : HoldsFrame value b
  seeking : b.bitIndex = seekingIndex

/-- The pair of the bit for slot 23 completes the frame (41_pulse_pair.md R100). -/
theorem Collected.last {value : BitVec Config.N_BITS} {T : Nat} {b : Block} (hb : Collected value 23 b)
    (hmin : 113 ≤ T) (hmax : T ≤ 265) (W : Nat) : FrameDone value (operationEffect W (bitInstr T (value.getLsbD 0)) b) := by
  obtain ⟨hen, hslot, hfilled⟩ := hb
  have hv := (pairValid_bitInstr T (value.getLsbD 0)).mpr ⟨hmin, by omega⟩
  have hvalue : placeBit b.accumulator b.bitIndex (value.getLsbD 0) = value :=
    hslot.symm ▸ ((eq_placeBit_last_iff value b.accumulator (value.getLsbD 0)).mpr
      ⟨rfl, fun n hn => (hfilled n hn).symm⟩).symm
  rw [bitInstr, operationEffect_pair_of_enabled hen, pairProcedure_of_last hv hslot, bitValue_bitInstr (by omega), hvalue]
  exact ⟨completeFrame_holdsFrame value b, rfl⟩

/-- The bits from position `i` down, sent when slot `23 - i` is awaited, complete the frame. -/
theorem Collected.sendBits {value : BitVec Config.N_BITS} {i T : Nat} {b : Block} (hi : i ≤ 23)
    (hb : Collected value (23 - i) b) (hmin : 113 ≤ T) (hmax : T ≤ 265) (W : Nat) :
    FrameDone value (operationsEffect W (sendBits T value (i + 1)) b) := by
  induction i generalizing b with
  | zero =>
    rw [sendBits_succ]
    exact hb.last hmin hmax W
  | succ i ih =>
    have hposition : 23 - (23 - (i + 1)) = i + 1 := by omega
    have hslot : 23 - (i + 1) + 1 = 23 - i := by omega
    have hnext := hb.next (by omega) hmin hmax W
    rw [hposition, hslot] at hnext
    rw [sendBits_succ]
    exact ih (by omega) hnext

/-- The block is enabled and awaits a preamble. -/
structure Ready (b : Block) : Prop where
  enabled : b.enabled = true
  seeking : b.bitIndex = seekingIndex

/-- A block that awaits a preamble decodes `SENDFRAME` with `113 ≤ T ≤ 265` (30_encoding.md R70). -/
theorem Ready.sendFrame {b : Block} (hb : Ready b) {T : Nat} (hmin : 113 ≤ T) (hmax : T ≤ 265) (W : Nat)
    (addr : BitVec Config.ADDR_BITS) (key : BitVec Config.KEY_BITS) :
    FrameDone (addr ++ key) (operationsEffect W (pseudoSendFrame T addr key) b) := by
  obtain ⟨hv, hp⟩ := (preamble_starts_iff T).mpr ⟨by omega, hmax⟩
  rw [pseudoSendFrame_eq, operationsEffect, operationEffect_pair_of_enabled hb.enabled,
    pairProcedure_of_preamble hv hb.seeking hp]
  exact Collected.sendBits (i := 23) (by omega) (startCollecting_collected _ hb.enabled) hmin hmax W

/-- The frame of an address and a key holds them (41_pulse_pair.md R100). -/
theorem HoldsFrame.address_key {addr : BitVec Config.ADDR_BITS} {key : BitVec Config.KEY_BITS} {b : Block}
    (hb : HoldsFrame (addr ++ key) b) : b.address = addr ∧ b.key = key := by
  rw [hb.address, hb.key]
  exact ⟨BitVec.extractLsb'_append_eq_left, BitVec.extractLsb'_append_eq_right⟩

/- A seeking block. -/

/-- The block is enabled, awaits a preamble, and no frame is detected. -/
structure ReadyUndetected (b : Block) : Prop extends Ready b where
  undetected : b.detected = false

/-- An enabled block that awaits no last bit keeps `detected` through a pair. -/
theorem pairProcedure_detected {h l : Nat} {b : Block} (hc : pairValid h l = false ∨ b.bitIndex ≠ lastIndex) :
    (pairProcedure h l b).detected = b.detected := by
  obtain ⟨-, e⟩ | ⟨-, -, -, e⟩ | ⟨-, -, -, e⟩ | ⟨hv, hl, -⟩ | ⟨-, -, -, e⟩ := pairProcedure_cases h l b
  case inr.inr.inr.inl =>
    obtain hv' | hl' := hc
    · simp [hv] at hv'
    · exact absurd hl hl'
  all_goals simp [e]

/-- The pair of a bit leaves a seeking block seeking. -/
theorem ReadyUndetected.bit {b : Block} (hb : ReadyUndetected b) (W T : Nat) (v : Bool) :
    ReadyUndetected (operationEffect W (bitInstr T v) b) := by
  obtain ⟨⟨hen, hs⟩, hd⟩ := hb
  have hlast : b.bitIndex ≠ lastIndex := hs ▸ by decide
  rw [bitInstr, operationEffect_pair_of_enabled hen]
  refine ⟨⟨(pairProcedure_frame _ _ b).1.trans hen, ?_⟩, (pairProcedure_detected (.inr hlast)).trans hd⟩
  by_contra hstart
  exact bitInstr_starts_nothing T v ((pairProcedure_starts_iff hs).mp hstart)

/-- Bits leave a seeking block seeking. -/
theorem ReadyUndetected.sendBits {b : Block} (hb : ReadyUndetected b) (W T : Nat) (value : BitVec Config.N_BITS) (n : Nat) :
    ReadyUndetected (operationsEffect W (sendBits T value n) b) := by
  induction n generalizing b with
  | zero => exact hb
  | succ n ih =>
    rw [sendBits_succ]
    exact ih (hb.bit W T _)

/-- The pair of a bit with `T < 113` is too short and aborts. -/
theorem short_bit_aborts {T : Nat} (hT : T < 113) {b : Block} (hen : b.enabled = true) (hd : b.detected = false)
    (W : Nat) (v : Bool) : ReadyUndetected (operationEffect W (bitInstr T v) b) := by
  have hv : pairValid (bitHigh T v) (bitLow T v) = false := by
    rw [← Bool.not_eq_true, pairValid_bitInstr]
    omega
  rw [bitInstr, operationEffect_pair_of_enabled hen, pairProcedure_of_invalid hv]
  exact ⟨⟨hen, rfl⟩, hd⟩

/-- `SENDFRAME` with `T` outside 113..265 is not decoded (30_encoding.md R70): below, the first bit is too short; above, the preamble is
too long. -/
theorem ReadyUndetected.sendFrame_out_of_range {b : Block} (hb : ReadyUndetected b) {T : Nat} (hT : T < 113 ∨ 265 < T)
    (W : Nat) (addr : BitVec Config.ADDR_BITS) (key : BitVec Config.KEY_BITS) :
    ReadyUndetected (operationsEffect W (pseudoSendFrame T addr key) b) := by
  obtain ⟨⟨hen, hs⟩, hd⟩ := hb
  have hlast : b.bitIndex ≠ lastIndex := hs ▸ by decide
  have hd' : (pairProcedure T (31 * T) b).detected = false := (pairProcedure_detected (.inr hlast)).trans hd
  have hen' : (pairProcedure T (31 * T) b).enabled = true := (pairProcedure_frame _ _ b).1.trans hen
  rw [pseudoSendFrame_eq, operationsEffect, operationEffect_pair_of_enabled hen]
  obtain hshort | hlong := hT
  · rw [sendBits_succ]
    exact (short_bit_aborts hshort hen' hd' W _).sendBits W T _ _
  · refine ReadyUndetected.sendBits ⟨⟨hen', ?_⟩, hd'⟩ W T _ _
    by_contra hstart
    have hstarts := (preamble_starts_iff T).mp ((pairProcedure_starts_iff hs).mp hstart)
    omega

/- The obligations. -/

/-- At a legal width the durations of a decodable `SENDFRAME` fit the operand. -/
theorem preamble_fits {W T : Nat} (hW : Config.W_MIN ≤ W) (hT : T ≤ 265) : 31 * T < 2 ^ W := by
  have hmax : 8500 < 2 ^ W := Config.max_pulse_ticks_representable hW
  omega

/-- Settles O36: in the range the frame is decoded, out of it the block ends seeking and undetected. -/
theorem sendFrameDecodesExactlyInItsRange : Obligations.SendFrameDecodesExactlyInItsRange := by
  intro s T addr key hen hs hd hT
  refine ⟨_, core_run_pseudoSendFrame hT addr key, rfl, ?_⟩
  rw [onBlock_toBlock]
  by_cases hrange : 113 ≤ T ∧ T ≤ 265
  · obtain ⟨hframe, hseek⟩ := Ready.sendFrame ⟨hen, hs⟩ hrange.1 hrange.2 s.W addr key
    obtain ⟨haddr, hkey⟩ := hframe.address_key
    exact ⟨iff_of_true hframe.detected hrange, fun _ _ => ⟨haddr, hkey, hseek⟩⟩
  · have hmissed := ReadyUndetected.sendFrame_out_of_range (b := s.toBlock) ⟨⟨hen, hs⟩, hd⟩ (T := T) (by omega) s.W addr key
    exact ⟨iff_of_false (ne_true_of_eq_false hmissed.undetected) hrange, fun hmin hmax => absurd ⟨hmin, hmax⟩ hrange⟩

/-- Settles O37: the invalid pair aborts, and the block awaits a preamble. -/
theorem frameAfterAnAbortDecodes : Obligations.FrameAfterAnAbortDecodes := by
  intro s h l T addr key hW hen hh hl hrange hmin hmax
  have hready : Ready (operationEffect s.W (.pair h l) s.toBlock) := by
    rw [operationEffect_pair_of_enabled hen, pairProcedure_of_invalid ((pairValid_eq_false_iff h l).mpr hrange)]
    exact ⟨hen, rfl⟩
  have hwf : (Instr.pair h l).wellFormed s.W = true := wellFormed_of_operands_lt hh hl
  obtain ⟨hframe, hseek⟩ := hready.sendFrame hmin hmax s.W addr key
  obtain ⟨haddr, hkey⟩ := hframe.address_key
  exact ⟨_, core_run_cons_pseudoSendFrame hwf (by nofun) (preamble_fits hW hmax) addr key,
    rfl, rfl, haddr, hkey, hframe.detected, hseek⟩

/-- Settles O38: every operation completes, and after `INIT` the block awaits a preamble. -/
theorem everyStateCanDecodeAFrame : Obligations.EveryStateCanDecodeAFrame := by
  intro s
  refine ⟨fun i => ⟨_, exec_eq i s⟩, fun hW T addr key hmin hmax => ?_⟩
  have hready : Ready (operationEffect s.W .init s.toBlock) := ⟨rfl, rfl⟩
  obtain ⟨hframe, -⟩ := hready.sendFrame hmin hmax s.W addr key
  obtain ⟨haddr, hkey⟩ := hframe.address_key
  exact ⟨_, core_run_cons_pseudoSendFrame rfl (by nofun) (preamble_fits hW hmax) addr key, hframe.detected, haddr, hkey⟩

end Sys2Proof.Machine
end
